-- ==== Sys2Proof/Word.lean ====
section
/-! DEFINITION. The fixed widths of 00_scope.md R13: bytes, 16-bit sample words, 32-bit registers and bus words. -/

namespace Sys2Proof

/-- A payload or scratch element (R13). -/
abbrev Byte := BitVec 8

/-- A sample word (R13, R243): 16 bits with no sign of its own. -/
abbrev Half := BitVec 16

/-- A control register, a bus address, a command word (R13, R150). -/
abbrev Word := BitVec 32

end Sys2Proof
end

