-- ==== Sys2Proof/Syntax.lean ====
section
/-! DEFINITION. The command set (30_encoding.md R153): one constructor per row of spec/opcode_table.json. -/

namespace Sys2Proof

/-- A command. The argument of PACK and ANALYZE is a byte length, that of UNPACK a sample count (R151, R153). -/
inductive Instr where
  /-- NOP (R215). -/
  | nop
  /-- PACK L (R236). -/
  | pack (l : Nat)
  /-- UNPACK K (R240). -/
  | unpack (k : Nat)
  /-- SEND (R264). -/
  | send
  /-- RECV (R271). -/
  | recv
  /-- RECV_ANALYZE (R276). -/
  | recvAnalyze
  /-- ANALYZE L (R310). -/
  | analyze (l : Nat)
  deriving DecidableEq, Repr

/-- The 24-bit ARG of a command; 0 for a command without an argument (R150). -/
def Instr.arg : Instr → Nat
  | .nop => 0
  | .pack l => l
  | .unpack k => k
  | .send => 0
  | .recv => 0
  | .recvAnalyze => 0
  | .analyze l => l

/-- The opcode of a command (R153). -/
def Instr.op : Instr → BitVec 8
  | .nop => 0x00
  | .pack _ => 0x01
  | .unpack _ => 0x02
  | .send => 0x10
  | .recv => 0x20
  | .recvAnalyze => 0x21
  | .analyze _ => 0x30

end Sys2Proof
end

