-- ==== Sys2Proof/WellFormed.lean ====
section
/-! DEFINITION. Which command terms have an encoding: "an argument above 16,777,215 is an assembly error, not an
encoding" (30_encoding.md R156, R151). -/

namespace Sys2Proof

/-- The argument fits its 24-bit field (R151, R156). -/
abbrev Instr.WellFormed (i : Instr) : Prop := i.arg < 2 ^ 24

end Sys2Proof
end

