-- ==== Sys2Proof/Decode.lean ====
section
/-! DEFINITION. Decoding a command word, total on all words and rejecting by name, and the encoder
(30_encoding.md R150 to R156). -/

namespace Sys2Proof

/-- Why a command word is illegal (R154). -/
inductive DecodeError where
  /-- OP is not in the opcode map. -/
  | unknownOpcode
  /-- NOP, SEND, RECV or RECV_ANALYZE with `ARG != 0`. -/
  | argNotZero
  deriving DecidableEq, Repr

/-- What decoding a word gives. -/
inductive Decoded where
  | command (i : Instr)
  | illegal (e : DecodeError)
  deriving DecidableEq, Repr

/-- OP, bits 7..0 of a command word (R150). -/
def opField (c : Word) : BitVec 8 := c.extractLsb' 0 8

/-- ARG, bits 31..8 of a command word (R150). -/
def argField (c : Word) : BitVec 24 := c.extractLsb' 8 24

/-- A command that takes no argument: legal only with ARG 0 (R153, R154). -/
def noArg (c : Word) (i : Instr) : Decoded :=
  if argField c = 0 then .command i else .illegal .argNotZero

/-- The opcode map of R153; every other word is illegal (R154). -/
def decode (c : Word) : Decoded :=
  if opField c = 0x00 then noArg c .nop
  else if opField c = 0x01 then .command (.pack (argField c).toNat)
  else if opField c = 0x02 then .command (.unpack (argField c).toNat)
  else if opField c = 0x10 then noArg c .send
  else if opField c = 0x20 then noArg c .recv
  else if opField c = 0x21 then noArg c .recvAnalyze
  else if opField c = 0x30 then .command (.analyze (argField c).toNat)
  else .illegal .unknownOpcode

/-- The instruction of a decoded word, if it is one. -/
def Decoded.toOption : Decoded → Option Instr
  | .command i => some i
  | .illegal _ => none

/-- R156: `(ARG << 8) | OP`. -/
def encode (i : Instr) : Word := BitVec.ofNat 24 i.arg ++ i.op

/-- One row of the opcode map: a word `c` selects it when `c & mask = value` (R153). -/
structure OpRow where
  mnemonic : String
  value : Word
  mask : Word
  deriving DecidableEq, Repr

/-- The match and mask columns of R153. -/
def opTable : List OpRow := [
  { mnemonic := "NOP", value := 0x00000000, mask := 0xFFFFFFFF },
  { mnemonic := "PACK", value := 0x00000001, mask := 0x000000FF },
  { mnemonic := "UNPACK", value := 0x00000002, mask := 0x000000FF },
  { mnemonic := "SEND", value := 0x00000010, mask := 0xFFFFFFFF },
  { mnemonic := "RECV", value := 0x00000020, mask := 0xFFFFFFFF },
  { mnemonic := "RECV_ANALYZE", value := 0x00000021, mask := 0xFFFFFFFF },
  { mnemonic := "ANALYZE", value := 0x00000030, mask := 0x000000FF }]

/-- The word selects the row (R153). -/
def OpRow.selects (r : OpRow) (c : Word) : Bool := c &&& r.mask == r.value

/-- The mnemonic of a command (R153). -/
def Instr.mnemonic : Instr → String
  | .nop => "NOP"
  | .pack _ => "PACK"
  | .unpack _ => "UNPACK"
  | .send => "SEND"
  | .recv => "RECV"
  | .recvAnalyze => "RECV_ANALYZE"
  | .analyze _ => "ANALYZE"

/-- A word of `nbits` bits as spec/opcode_table.json numbers them. A command is exactly one 32-bit word (R152),
delivered as one value (R106), so no byte order arises; bits at and above `nbits` are 0. -/
def tableWord (nbits w : Nat) : Word := BitVec.ofNat 32 (w % 2 ^ nbits)

/-- What the decoder reads from an instruction of the opcode table. -/
def decodeTableWord (nbits w : Nat) : Option Instr :=
  if nbits ≤ 32 then (decode (tableWord nbits w)).toOption else none

end Sys2Proof
end

