-- ==== Sys2Proof/Config.lean ====
section
/-! DEFINITION. What an implementation fixes (00_scope.md R10 to R12) and the one free value of the model
(70_reset_and_hazards.md R456). -/

namespace Sys2Proof

/-- The implementation parameters, which "the model takes as an argument" (R10, R11, R12). They stand in the state
(log 2) because a step has no other argument; no step changes them. -/
structure Params where
  /-- `SCRATCH_BYTES` (R10). -/
  scratchBytes : Nat
  /-- `PAYLOAD_BYTES` (R11). -/
  payloadBytes : Nat
  /-- `P_SAMPLE_RATE_RESET` (R12). -/
  sampleRateReset : Word
  deriving DecidableEq, Repr

/-- The constraints of R10 and R11: `SCRATCH_BYTES` is even and `2 <= SCRATCH_BYTES <= 65536`;
`0 <= PAYLOAD_BYTES <= 2^24`. -/
abbrev Params.Legal (p : Params) : Prop :=
  p.scratchBytes % 2 = 0 ∧ 2 ≤ p.scratchBytes ∧ p.scratchBytes ≤ 65536 ∧ p.payloadBytes ≤ 16777216

/-- DESIGN CHOICE (log 2): the parameters of `State.reset`, those of the spec's own test vectors
(95_test_vectors.md, common conventions), with sample rate 0. Every statement about all states covers every other
choice. -/
def Config.params : Params := { scratchBytes := 8, payloadBytes := 16, sampleRateReset := 0 }

/-- The free value of R456: what the `n`-th memory-reading step finds in the byte at bus address `a`, where `a` has
not been written since power-on reset. No body: nothing can be proved about it (log 1). -/
opaque Config.unwritten : (n : Nat) → (a : Nat) → Byte

end Sys2Proof
end

