-- ==== Sys2Proof/Machine/State.lean ====
section
/-! DEFINITION. The state of one ASP block (10_state.md R30 to R85), the inputs of its agents (00_scope.md R8), and
the state after power-on reset (70_reset_and_hazards.md R450, R451). -/

namespace Sys2Proof.Machine

/-- STATUS.SEQ_STATE (R42, R203); value 7 never occurs. -/
inductive SeqState where
  | idle | exec | sendIssue | txWait | rxIssue | rxWait | rxAnalyze
  deriving DecidableEq, Repr

/-- ERR.ERR_CODE (R44, R401); codes 6 to 255 never occur. -/
inductive ErrCode where
  | noError | illegalCmd | cmdBusy | badConfig | badArg | writeBusy
  deriving DecidableEq, Repr

/-- CFG.BYTE_ORDER (R48). -/
inductive ByteOrder where
  | little | big
  deriving DecidableEq, Repr

/-- The outcome of one transport call, the KIND of a per-chunk frame (R170). -/
inductive ChunkKind where
  | txOk | txErr | rxOk | rxErr
  deriving DecidableEq, Repr

/-- LAST_OUTCOME (R59): NONE, or the kind of the most recent per-chunk outcome. -/
inductive LastOutcome where
  | noOutcome
  | outcome (k : ChunkKind)
  deriving DecidableEq, Repr

/-- ST_CLASS (R72): the strength classification. -/
inductive Strength where
  | none | weak | moderate | strong
  deriving DecidableEq, Repr

/-- AudioStats, the ST_* registers (R65 to R72), written all together by every analysis (R320). -/
structure AudioStats where
  /-- ST_SAMPLE_COUNT (R65). -/
  sampleCount : Word
  /-- ST_ACTIVE_COUNT (R66). -/
  activeCount : Word
  /-- ST_SUM_ABS (R67). -/
  sumAbs : Word
  /-- ST_MAX_ABS (R68). -/
  maxAbs : Word
  /-- ST_MIN (R69), a sign-extended 16-bit value. -/
  minRaw : Word
  /-- ST_AVG_ABS (R70). -/
  avgAbs : Word
  /-- ST_ACTIVE_RATIO (R71), a binary32 bit pattern. -/
  activeRatio : Word
  /-- ST_CLASS (R72). -/
  strength : Strength
  deriving DecidableEq, Repr

/-- TREQ (R82): the outstanding transport request. -/
inductive Treq where
  | none
  | transmit (words : List Half)
  | receive (n : Nat)
  deriving DecidableEq, Repr

/-- One report (R170 to R172). Its eight-word frame is `Report.frame`. -/
inductive Report where
  /-- A per-chunk report (R171). -/
  | chunk (kind : ChunkKind) (index bytes : Word)
  /-- A statistics report (R172). -/
  | stats (a : AudioStats)
  deriving DecidableEq, Repr

/-- The width of a host access (R110, R111). -/
inductive Size where
  | byte | half | word
  deriving DecidableEq, Repr

/-- One host access (R157). The value of a write narrower than 32 bits is in its low bits. -/
inductive HostAccess where
  | read (size : Size) (addr : Word)
  | write (size : Size) (addr value : Word)
  deriving DecidableEq, Repr

/-- The response to a host access (R112): `ack` for a write the bus performed, `value` for a read. -/
inductive HostResp where
  | none
  | ack
  | value (v : Word)
  | busError
  deriving DecidableEq, Repr

/-- A transport answer (R262). `rxOk d` is `RxOk(m, d)` with `m` the length of `d` (log 13). -/
inductive Answer where
  | txOk
  | txErr
  | rxOk (d : List Byte)
  | rxErr
  deriving DecidableEq, Repr

/-- One step of one agent (R8, R118), or the platform's reset input (R450). -/
inductive Input where
  /-- The host performs an access. -/
  | host (a : HostAccess)
  /-- The sequencer takes its enabled step. -/
  | sequencer
  /-- The transport answers. -/
  | transport (a : Answer)
  /-- Power-on reset is asserted. -/
  | powerOnReset
  deriving DecidableEq, Repr

/-- The state of one block (R30). The last four fields are the model's own (INVENTORY.md, State): the parameters,
the steps still to be taken, the latest response to the host, and the counter of the free values. -/
structure State where
  /-- STATUS.SEQ_STATE (R42). -/
  seqState : SeqState
  /-- STATUS.STATS_VALID (R42). -/
  statsValid : Bool
  /-- ERR.ERR_CODE (R44). -/
  errCode : ErrCode
  /-- ERR.ERR_OVF (R44). -/
  errOvf : Bool
  /-- ERR_CMD (R45). -/
  errCmd : Word
  /-- IRQ_STATUS bits 3..0: RXF, TXF, ERR, DONE (R46). -/
  irqStatus : BitVec 4
  /-- IRQ_ENABLE bits 3..0 (R47). -/
  irqEnable : BitVec 4
  /-- CFG.BYTE_ORDER (R48). -/
  byteOrder : ByteOrder
  /-- CAPACITY (R49). -/
  capacity : Word
  /-- BLOCK_BYTES (R50). -/
  blockBytes : Word
  /-- PAYLOAD_LEN (R51). -/
  payloadLen : Word
  /-- NOISE_THR (R52). -/
  noiseThr : Word
  /-- MODERATE_BP (R53). -/
  moderateBp : Word
  /-- STRONG_BP (R53). -/
  strongBp : Word
  /-- ACTIVE_BP (R53). -/
  activeBp : Word
  /-- SAMPLE_RATE (R54). -/
  sampleRate : Word
  /-- POS (R55). -/
  pos : Word
  /-- BYTES_SENT (R56). -/
  bytesSent : Word
  /-- CHUNK_INDEX (R57). -/
  chunkIndex : Word
  /-- TX_FAILS (R58). -/
  txFails : Word
  /-- LAST_OUTCOME (R59). -/
  lastOutcome : LastOutcome
  /-- LAST_INDEX (R60). -/
  lastIndex : Word
  /-- LAST_BYTES (R61). -/
  lastBytes : Word
  /-- RX_SEQ (R62). -/
  rxSeq : Word
  /-- RX_COUNT (R63). -/
  rxCount : Word
  /-- PACKED_N (R64). -/
  packedN : Word
  /-- ST_* (R65 to R72). -/
  stats : AudioStats
  /-- Scratch, Samples and Payload (R36 to R38), each byte at its bus address (R102, R103, R105), strictly rising
  addresses; an unlisted byte has not been written since power-on reset (R456, log 1 and 11). -/
  mem : List Host.Cell
  /-- CUR_OP (R80). -/
  curOp : BitVec 8
  /-- CUR_ARG (R80). -/
  curArg : BitVec 24
  /-- CUR_CS (R81). -/
  curCs : Word
  /-- TREQ (R82). -/
  treq : Treq
  /-- The report log (R84), oldest first. -/
  reports : List Report
  /-- The model's arguments (R10 to R12, log 2). -/
  params : Params
  /-- The steps still to be taken, the next one first (R8, R118, R119, log 4). -/
  inputs : List Input
  /-- The response to the latest host access (R112, log 8). -/
  hostResp : HostResp
  /-- How many steps have read memory: the index of the next fresh draw (R456, log 1). -/
  draws : Nat
  deriving DecidableEq, Repr

/-- Why the machine stops with a fault. -/
inductive Fault where
  /-- Raised by a sequencer step in a state that R203's table gives no transition ("No other transition exists"),
  such as SEND in EXEC, or a latched command word that decodes to no command. Such a state is unreachable
  (93_implementation_defined.md: "a model may `fault` on it"). Safe: the model stops (log 7). -/
  | noTransition
  deriving DecidableEq, Repr

/-- Why the machine refuses an instruction. -/
inductive Refusal where
  /-- Raised by an arm of `exec` whose instruction has no meaning in the model yet. Safe: the model stops. -/
  | notModelled (mnemonic : String)
  deriving DecidableEq, Repr

/-- The statistics of an empty analysis (R319), the reset values of the ST_* registers (R451). -/
def AudioStats.empty : AudioStats where
  sampleCount := 0
  activeCount := 0
  sumAbs := 0
  maxAbs := 0
  minRaw := 0x00007FFF
  avgAbs := 0
  activeRatio := 0
  strength := .none

/-- The state right after power-on reset of a block with parameters `p` (R450, R451). Memory lists nothing: every
element is unspecified (R456). CUR_OP, CUR_ARG and CUR_CS, which R450 leaves unspecified, are 0 (DESIGN CHOICE,
log 3). -/
def State.powerOn (p : Params) : State where
  seqState := .idle
  statsValid := false
  errCode := .noError
  errOvf := false
  errCmd := 0
  irqStatus := 0
  irqEnable := 0
  byteOrder := .little
  capacity := BitVec.ofNat 32 p.scratchBytes
  blockBytes := BitVec.ofNat 32 p.scratchBytes
  payloadLen := 0
  noiseThr := 10
  moderateBp := 100
  strongBp := 1000
  activeBp := 10
  sampleRate := p.sampleRateReset
  pos := 0
  bytesSent := 0
  chunkIndex := 0
  txFails := 0
  lastOutcome := .noOutcome
  lastIndex := 0
  lastBytes := 0
  rxSeq := 0
  rxCount := 0
  packedN := 0
  stats := AudioStats.empty
  mem := []
  curOp := 0
  curArg := 0
  curCs := 0
  treq := .none
  reports := []
  params := p
  inputs := []
  hostResp := .none
  draws := 0

/-- The machine right after power-on reset, at the parameters of `Config.params` (log 2). -/
def State.reset : State := State.powerOn Config.params

end Sys2Proof.Machine
end

