-- ==== Sys2Proof/Machine/Flags.lean ====
section
/-! DEFINITION. The status flags (10_state.md R33): BUSY, the IRQ_STATUS bits, the interrupt line, and the encodings
of the fields of STATUS, ERR, LAST_OUTCOME and ST_CLASS. -/

namespace Sys2Proof.Machine

/-- STATUS.BUSY (R42): 1 when SEQ_STATE is not 0. -/
def State.busy (s : State) : Bool := s.seqState != .idle

/-- IRQ_STATUS.DONE (R46). -/
def irqDone : BitVec 4 := 0b0001#4

/-- IRQ_STATUS.ERR (R46). -/
def irqErr : BitVec 4 := 0b0010#4

/-- IRQ_STATUS.TXF (R46). -/
def irqTxf : BitVec 4 := 0b0100#4

/-- IRQ_STATUS.RXF (R46). -/
def irqRxf : BitVec 4 := 0b1000#4

/-- The interrupt line (R83, R410): a function of the state. -/
def State.irq (s : State) : Bool := (s.irqStatus &&& s.irqEnable) != 0

/-- The encoding of SEQ_STATE (R42). -/
def SeqState.code : SeqState → BitVec 3
  | .idle => 0
  | .exec => 1
  | .sendIssue => 2
  | .txWait => 3
  | .rxIssue => 4
  | .rxWait => 5
  | .rxAnalyze => 6

/-- The encoding of ERR_CODE (R401). -/
def ErrCode.code : ErrCode → BitVec 8
  | .noError => 0
  | .illegalCmd => 1
  | .cmdBusy => 2
  | .badConfig => 3
  | .badArg => 4
  | .writeBusy => 5

/-- KIND of a per-chunk frame (R170). -/
def ChunkKind.code : ChunkKind → BitVec 4
  | .txOk => 1
  | .txErr => 2
  | .rxOk => 3
  | .rxErr => 4

/-- The encoding of LAST_OUTCOME (R59). -/
def LastOutcome.code : LastOutcome → BitVec 3
  | .noOutcome => 0
  | .outcome .txOk => 1
  | .outcome .txErr => 2
  | .outcome .rxOk => 3
  | .outcome .rxErr => 4

/-- The encoding of ST_CLASS (R72). -/
def Strength.code : Strength → BitVec 2
  | .none => 0
  | .weak => 1
  | .moderate => 2
  | .strong => 3

/-- CFG.BYTE_ORDER (R48). -/
def ByteOrder.code : ByteOrder → BitVec 1
  | .little => 0
  | .big => 1

/-- The byte order that bit 0 of a CFG write declares (R48). -/
def ByteOrder.ofBit (b : Bool) : ByteOrder := if b then .big else .little

/-- STATUS as the host reads it (R42). -/
def State.statusWord (s : State) : Word :=
  0#27 ++ BitVec.ofBool s.statsValid ++ s.seqState.code ++ BitVec.ofBool s.busy

/-- ERR as the host reads it (R44). -/
def State.errWord (s : State) : Word := 0#23 ++ BitVec.ofBool s.errOvf ++ s.errCode.code

end Sys2Proof.Machine
end

