-- ==== Sys2Proof/Machine/Memory.lean ====
section
/-! DEFINITION. The byte memory: a list of written bytes at strictly rising bus addresses; a byte not listed has not
been written since power-on reset and reads as a free value (70_reset_and_hazards.md R456, log 1). -/

namespace Sys2Proof.Machine

/-- The canonical form: addresses strictly rising. No value is excluded, since an unlisted byte has no value of its
own (log 1). -/
def Memory.wf : List Host.Cell → Bool
  | [] => true
  | [_] => true
  | x :: y :: r => decide (x.1 < y.1) && Memory.wf (y :: r)

/-- The byte written at `a`, if one has been. -/
def Memory.lookup : List Host.Cell → Nat → Option Byte
  | [], _ => none
  | x :: r, a => if x.1 = a then some x.2 else Memory.lookup r a

/-- Reads the byte at `a` in the `n`-th memory-reading step: the written byte, or a draw (R456). -/
def Memory.read (n : Nat) (m : List Host.Cell) (a : Nat) : Byte :=
  match Memory.lookup m a with
  | some b => b
  | none => Config.unwritten n a

/-- Writes one byte, keeping the addresses strictly rising. -/
def Memory.write : List Host.Cell → Nat → Byte → List Host.Cell
  | [], a, b => [(a, b)]
  | x :: r, a, b =>
    if a < x.1 then (a, b) :: x :: r
    else if a = x.1 then (a, b) :: r
    else x :: Memory.write r a b

/-- Reads `k` consecutive bytes from `a`, the lowest address first. -/
def Memory.readList (n : Nat) (m : List Host.Cell) : Nat → Nat → List Byte
  | _, 0 => []
  | a, k + 1 => Memory.read n m a :: Memory.readList n m (a + 1) k

/-- Writes consecutive bytes from `a`, the lowest address first. -/
def Memory.writeList : List Host.Cell → Nat → List Byte → List Host.Cell
  | m, _, [] => m
  | m, a, b :: r => Memory.writeList (Memory.write m a b) (a + 1) r

/-- Bus address of `Scratch[0]` (R101, R102). -/
def scratchBase : Nat := 0x00010000

/-- Bus address of the low byte of `Samples[0]` (R101, R103). -/
def sampleBase : Nat := 0x00020000

/-- Bus address of `Payload[0]` (R101, R105). -/
def payloadBase : Nat := 0x01000000

end Sys2Proof.Machine
end

