-- ==== Sys2Proof/Machine/Operands.lean ====
section
/-! DEFINITION. Operands: the byte-order helpers (00_scope.md R18), the conversion functions of the packer
(41_packer.md R230, R231), and reading the elements of the three memories (00_scope.md R16). -/

namespace Sys2Proof.Machine

/-- `pack2` (R18): the word built from the byte at the lower index and the byte at the higher index. -/
def pack2 (bo : ByteOrder) (b0 b1 : Byte) : Half :=
  match bo with
  | .little => b1 ++ b0
  | .big => b0 ++ b1

/-- Bits 7..0 of a sample word. -/
def lowByte (w : Half) : Byte := w.extractLsb' 0 8

/-- Bits 15..8 of a sample word. -/
def highByte (w : Half) : Byte := w.extractLsb' 8 8

/-- `unpack2` (R18): the pair of bytes of a word, the lower index first. -/
def unpack2 (bo : ByteOrder) (w : Half) : Byte × Byte :=
  match bo with
  | .little => (lowByte w, highByte w)
  | .big => (highByte w, lowByte w)

/-- `pack` (R230): an odd length is padded with a zero byte at index `n` of the last pair (R232). -/
def pack (bo : ByteOrder) : List Byte → List Half
  | [] => []
  | [b] => [pack2 bo b 0]
  | b0 :: b1 :: r => pack2 bo b0 b1 :: pack bo r

/-- `unpack` (R231). -/
def unpack (bo : ByteOrder) : List Half → List Byte
  | [] => []
  | w :: r => (unpack2 bo w).1 :: (unpack2 bo w).2 :: unpack bo r

/-- The bytes of sample words as the sample window lays them out, whatever the packing order (R103). -/
def sampleBytes : List Half → List Byte
  | [] => []
  | w :: r => lowByte w :: highByte w :: sampleBytes r

/-- `Scratch[i]`, as the present step reads it. -/
def State.scratchAt (s : State) (i : Nat) : Byte := Memory.read s.draws s.mem (scratchBase + i)

/-- `Samples[k]`, as the present step reads it (R103). -/
def State.sampleAt (s : State) (k : Nat) : Half :=
  Memory.read s.draws s.mem (sampleBase + 2 * k + 1) ++ Memory.read s.draws s.mem (sampleBase + 2 * k)

/-- `Payload[i]`, as the present step reads it. -/
def State.payloadAt (s : State) (i : Nat) : Byte := Memory.read s.draws s.mem (payloadBase + i)

/-- `Scratch[0 .. n)`. -/
def State.readScratch (s : State) (n : Nat) : List Byte := Memory.readList s.draws s.mem scratchBase n

/-- `Samples[0 .. n)`. -/
def State.readSamples (s : State) (n : Nat) : List Half := (List.range n).map s.sampleAt

/-- `Payload[i .. i + n)`. -/
def State.readPayload (s : State) (i n : Nat) : List Byte := Memory.readList s.draws s.mem (payloadBase + i) n

/-- `Scratch[0 ..) <- bytes`. -/
def writeScratch (m : List Host.Cell) (bytes : List Byte) : List Host.Cell := Memory.writeList m scratchBase bytes

/-- `Samples[0 ..) <- words`. -/
def writeSamples (m : List Host.Cell) (words : List Half) : List Host.Cell :=
  Memory.writeList m sampleBase (sampleBytes words)

/-- A step that has read memory uses up its draws, so that the next read of an unwritten byte is a fresh one (R456,
log 1). -/
def State.drawn (s : State) : State := { s with draws := s.draws + 1 }

end Sys2Proof.Machine
end

