-- ==== Sys2Proof/Machine/Ops.lean ====
section
/-! DEFINITION. The operations every command shares: raising a command error and acknowledging it (60_exceptions.md
R402, R407), issue (40_common.md R201, R205), completion (R210), reports (42_streamer.md R280), resets
(70_reset_and_hazards.md R450, R452), and which of a command's steps is being taken. -/

namespace Sys2Proof.Machine

/-- `raise CmdError(code, info)` (R402): the block's one exception. The first error is kept, a later one only sets
ERR_OVF; IRQ_STATUS.ERR is set; nothing else changes. -/
def cmdError (code : ErrCode) (info : Word) (s : State) : State :=
  if s.errCode = .noError then { s with errCode := code, errCmd := info, irqStatus := s.irqStatus ||| irqErr }
  else { s with errOvf := true, irqStatus := s.irqStatus ||| irqErr }

/-- A host write to IRQ_STATUS (R46): clears the bits written 1; bit 1 also clears ERR and ERR_CMD. It is the
acknowledgement, the block's only return from an error (R407). -/
def acknowledge (ones : BitVec 4) (s : State) : State :=
  if ones &&& irqErr = 0 then { s with irqStatus := s.irqStatus &&& ~~~ones }
  else { s with irqStatus := s.irqStatus &&& ~~~ones, errCode := .noError, errOvf := false, errCmd := 0 }

/-- `complete` (R210). A pending bit already 1 stays 1 (R411), here and wherever one is set. -/
def complete (s : State) : State := { s with seqState := .idle, irqStatus := s.irqStatus ||| irqDone }

/-- `emit Report(kind, index, bytes)` (R280) and the LAST_* registers that mirror it (R59 to R61, R266, R267, R273,
R274). -/
def emitChunk (kind : ChunkKind) (index bytes : Word) (s : State) : State :=
  { s with
    reports := s.reports ++ [.chunk kind index bytes]
    lastOutcome := .outcome kind
    lastIndex := index
    lastBytes := bytes }

/-- The eight words of a report frame (R170 to R172). -/
def Report.frame : Report → List Word
  | .chunk kind index bytes => [kind.code.setWidth 32, index, bytes, 0, 0, 0, 0, 0]
  | .stats a => [0#26 ++ a.strength.code ++ 5#4, a.sampleCount, a.activeCount, a.sumAbs, a.maxAbs, a.minRaw, a.avgAbs,
      a.activeRatio]

/-- Power-on reset (R450). The inputs still to come and the draw counter are the model's own and go on. -/
def powerOnReset (s : State) : State :=
  { State.powerOn s.params with inputs := s.inputs, draws := s.draws }

/-- Soft reset (R452): what power-on reset does to the control registers and the hidden state; Scratch, Samples,
Payload and the report log keep their contents. -/
def softReset (s : State) : State :=
  { State.powerOn s.params with
    mem := s.mem
    reports := s.reports
    inputs := s.inputs
    hostResp := s.hostResp
    draws := s.draws }

/-- `capOK()` (R204). -/
abbrev State.capOk (s : State) : Prop :=
  s.capacity.toNat % 2 = 0 ∧ 2 ≤ s.capacity.toNat ∧ s.capacity.toNat ≤ s.params.scratchBytes

/-- The configuration check of an issue (R201): `capOK()` for every command but NOP, and what SEND, RECV and
RECV_ANALYZE need beside it. -/
def badConfig (i : Instr) (s : State) : Bool :=
  match i with
  | .nop => false
  | .pack _ | .unpack _ | .analyze _ => !decide s.capOk
  | .send => !decide s.capOk || decide (s.params.payloadBytes < s.payloadLen.toNat)
  | .recv | .recvAnalyze => !decide s.capOk || decide (s.capacity.toNat < s.blockBytes.toNat)

/-- The argument check of an issue (R201, R206). -/
def badArg (i : Instr) (s : State) : Bool :=
  match i with
  | .pack l | .analyze l => decide (s.capacity.toNat < l)
  | .unpack k => decide (s.capacity.toNat / 2 < k)
  | .nop | .send | .recv | .recvAnalyze => false

/-- The error the issue of a legal command word raises, in the priority of R202 (ILLEGAL_CMD, which stands between
CMD_BUSY and BAD_CONFIG, is for words that are no command: `issueIllegal`). -/
def issueError (i : Instr) (s : State) : ErrCode :=
  if s.busy then .cmdBusy
  else if badConfig i s then .badConfig
  else if badArg i s then .badArg
  else .noError

/-- The sequencer state an accepted command starts in (R205). -/
def firstState : Instr → SeqState
  | .nop | .pack _ | .unpack _ | .analyze _ => .exec
  | .send => .sendIssue
  | .recv | .recvAnalyze => .rxIssue

/-- `start(op, arg)` (R205). -/
def start (i : Instr) (s : State) : State :=
  { s with seqState := firstState i, curOp := i.op, curArg := BitVec.ofNat 24 i.arg }

/-- The cycle initialisation of SEND (R264). -/
def clearSendCounters (s : State) : State := { s with pos := 0, bytesSent := 0, chunkIndex := 0, txFails := 0 }

/-- The moving agent's step is taken off the inputs. -/
def State.pop (s : State) : State := { s with inputs := s.inputs.tail }

/-- A host access is taken off the inputs and answered (R112). -/
def State.answerHost (r : HostResp) (s : State) : State := { s with inputs := s.inputs.tail, hostResp := r }

/-- The issue of a legal command word (R201): the checks, then `accepted`. The word written is `encode i`. -/
def issue (i : Instr) (accepted : State → State) (s : State) : State :=
  match issueError i s with
  | .noError => accepted (s.answerHost .ack)
  | code => cmdError code (encode i) (s.answerHost .ack)

/-- The issue of a word that is no command (R201): CMD_BUSY while BUSY, else ILLEGAL_CMD. -/
def issueIllegal (c : Word) (s : State) : State :=
  cmdError (if s.busy then .cmdBusy else .illegalCmd) c (s.answerHost .ack)

/-- Which step of a command is being taken. -/
inductive CommandStep where
  /-- The host issues it. -/
  | issue
  /-- The sequencer works on it. -/
  | sequencer
  /-- The transport answers its request. -/
  | answer (a : Answer)
  deriving DecidableEq, Repr

/-- Who moves: the host, the transport, or else the sequencer, which also moves when no input is left (log 4). -/
def State.commandStep (s : State) : CommandStep :=
  match s.inputs with
  | .host _ :: _ => .issue
  | .transport a :: _ => .answer a
  | .sequencer :: _ | .powerOnReset :: _ | [] => .sequencer

/-- Whether the sequencer has an enabled step (R207). -/
def State.sequencerEnabled (s : State) : Bool :=
  match s.seqState with
  | .exec | .sendIssue | .rxIssue | .rxAnalyze => true
  | .idle | .txWait | .rxWait => false

/-- A sequencer turn on which the command at hand has no step of its own: without an enabled step nothing happens
and the turn passes (R207, log 6); with one, the state is one R203 has no transition for (log 7). -/
def otherTurn (s : State) : Host.Outcome State Fault Refusal :=
  if s.sequencerEnabled then .fault .noTransition else .next s.pop

/-- A command of the EXEC state (R208): in that state its action and `complete`, in one step. -/
def execStep (action : State → State) (s : State) : Host.Outcome State Fault Refusal :=
  match s.seqState with
  | .exec => .next (complete (action s.pop))
  | _ => otherTurn s

end Sys2Proof.Machine
end

