-- ==== Sys2Proof/Machine/Analysis.lean ====
section
/-! DEFINITION. The analysis of the Signal Analyzer (43_analyzer.md R311 to R321), on unbounded integers (00_scope.md
R15), and its commit (R320). -/

namespace Sys2Proof.Machine

/-- R311, R312: the signed samples of a byte block under the declared byte order; an odd last byte is no part of any
sample. -/
def samplesOf (bo : ByteOrder) : List Byte → List Int
  | b0 :: b1 :: r => (pack2 bo b0 b1).toInt :: samplesOf bo r
  | _ => []

/-- R313: absolute values, exact, so that of -32768 is 32768. -/
def absOf (samples : List Int) : List Nat := samples.map Int.natAbs

/-- R314: how many absolute values exceed the noise threshold. -/
def activeOf (noise : Nat) (samples : List Int) : Nat := (absOf samples).countP (fun a => decide (noise < a))

/-- R315: the exact sum of the absolute values. -/
def sumOf (samples : List Int) : Nat := (absOf samples).sum

/-- R316: the greatest absolute value, 0 for no sample. -/
def maxAbsOf (samples : List Int) : Nat := (absOf samples).foldr max 0

/-- R316: the least signed sample, 32767 for no sample. -/
def minOf (samples : List Int) : Int := samples.foldr min 32767

/-- R317: the average, floor division, 0 for no sample. -/
def avgOf (samples : List Int) : Nat := if samples.length = 0 then 0 else sumOf samples / samples.length

/-- R318: the classification, first match wins, every comparison strict. -/
def classify (strongBp moderateBp activeBp avg active : Nat) : Strength :=
  if strongBp < avg then .strong
  else if moderateBp < avg then .moderate
  else if activeBp < active then .weak
  else .none

/-- The least `e` with `k <= a * 2^e`, so that `a / k` lies in `[2^-e, 2^(1-e))` for `0 < a <= k`; `fuel` bounds the
search. -/
def ratioScale : Nat → Nat → Nat → Nat
  | 0, _, _ => 0
  | fuel + 1, a, k => if k ≤ a then 0 else ratioScale fuel (2 * a) k + 1

/-- `n / d` rounded to the nearest integer, ties to even. -/
def divNearestEven (n d : Nat) : Nat :=
  if 2 * (n % d) < d then n / d
  else if d < 2 * (n % d) then n / d + 1
  else if n / d % 2 = 0 then n / d
  else n / d + 1

/-- R321: the binary32 pattern nearest to `active / k`, ties to even; +0.0 for no sample. With `e` the scale, the
significand is `a / k * 2^(e+23)` rounded, in `[2^23, 2^24]`; the biased exponent is `127 - e`, and a significand of
`2^24` carries into it. The binary32 format is the spec's general knowledge (log 14). -/
def ratioBits (active k : Nat) : Word :=
  if k = 0 ∨ active = 0 then 0
  else
    BitVec.ofNat 32
      ((127 - ratioScale 32 active k) * 2 ^ 23
        + (divNearestEven (active * 2 ^ (ratioScale 32 active k + 23)) k - 2 ^ 23))

/-- The eight statistics of a byte block (R311 to R321), as the commit stores them (R320). -/
def statsOf (bo : ByteOrder) (noise strongBp moderateBp activeBp : Nat) (bytes : List Byte) : AudioStats :=
  let samples := samplesOf bo bytes
  { sampleCount := BitVec.ofNat 32 samples.length
    activeCount := BitVec.ofNat 32 (activeOf noise samples)
    sumAbs := BitVec.ofNat 32 (sumOf samples)
    maxAbs := BitVec.ofNat 32 (maxAbsOf samples)
    minRaw := (BitVec.ofInt 16 (minOf samples)).signExtend 32
    avgAbs := BitVec.ofNat 32 (avgOf samples)
    activeRatio := ratioBits (activeOf noise samples) samples.length
    strength := classify strongBp moderateBp activeBp (avgOf samples) (activeOf noise samples) }

/-- The statistics of a byte block under the block's configuration. -/
def State.statsFor (s : State) (bytes : List Byte) : AudioStats :=
  statsOf s.byteOrder s.noiseThr.toNat s.strongBp.toNat s.moderateBp.toNat s.activeBp.toNat bytes

/-- R320: every ST_* register, STATS_VALID and one STATS frame, in one step. -/
def commitStats (a : AudioStats) (s : State) : State :=
  { s with stats := a, statsValid := true, reports := s.reports ++ [.stats a] }

/-- `analyse(L)` (R311 to R320): reads `Scratch[0 .. L)`, never the sample buffer, and writes no memory. -/
def analyseAction (l : Nat) (s : State) : State := commitStats (s.statsFor (s.readScratch l)) s.drawn

end Sys2Proof.Machine
end

