-- ==== Sys2Proof/Machine/Analyzer.lean ====
section
/-! DEFINITION. The Signal Analyzer's command ANALYZE (43_analyzer.md R310). -/

namespace Sys2Proof.Machine

/-- ANALYZE L (R310). -/
def execAnalyze (l : Nat) (s : State) : Host.Outcome State Fault Refusal :=
  match s.commandStep with
  | .issue => .next (issue (.analyze l) (start (.analyze l)) s)
  | .sequencer => execStep (analyseAction l) s
  | .answer _ => .next s.pop

end Sys2Proof.Machine
end

