-- ==== Sys2Proof/Machine/Common.lean ====
section
/-! DEFINITION. NOP (40_common.md R215). -/

namespace Sys2Proof.Machine

/-- NOP (R215): its EXEC step only completes; no configuration check at issue. -/
def execNop (s : State) : Host.Outcome State Fault Refusal :=
  match s.commandStep with
  | .issue => .next (issue .nop (start .nop) s)
  | .sequencer => execStep id s
  | .answer _ => .next s.pop

end Sys2Proof.Machine
end

