-- ==== Sys2Proof/Machine/Packer.lean ====
section
/-! DEFINITION. The Sample Packer's commands PACK and UNPACK (41_packer.md R236, R240). -/

namespace Sys2Proof.Machine

/-- PACK's action (R236): `Samples[0 .. ceil(L/2)) <- pack(Scratch[0 .. L))`; Scratch is not written. -/
def packAction (l : Nat) (s : State) : State :=
  { s.drawn with
    mem := writeSamples s.mem (pack s.byteOrder (s.readScratch l))
    packedN := BitVec.ofNat 32 ((l + 1) / 2) }

/-- PACK L (R236). -/
def execPack (l : Nat) (s : State) : Host.Outcome State Fault Refusal :=
  match s.commandStep with
  | .issue => .next (issue (.pack l) (start (.pack l)) s)
  | .sequencer => execStep (packAction l) s
  | .answer _ => .next s.pop

/-- UNPACK's action (R240): `Scratch[0 .. 2K) <- unpack(Samples[0 .. K))`; PACKED_N is not written. -/
def unpackAction (k : Nat) (s : State) : State :=
  { s.drawn with mem := writeScratch s.mem (unpack s.byteOrder (s.readSamples k)) }

/-- UNPACK K (R240). -/
def execUnpack (k : Nat) (s : State) : Host.Outcome State Fault Refusal :=
  match s.commandStep with
  | .issue => .next (issue (.unpack k) (start (.unpack k)) s)
  | .sequencer => execStep (unpackAction k) s
  | .answer _ => .next s.pop

end Sys2Proof.Machine
end

