-- ==== Sys2Proof/Machine/Streamer.lean ====
section
/-! DEFINITION. The Chunked Streamer's commands SEND, RECV and RECV_ANALYZE (42_streamer.md R260 to R283). -/

namespace Sys2Proof.Machine

/-- `cs` of R265: the size of the chunk at POS. -/
def State.chunkSize (s : State) : Nat := min (s.payloadLen.toNat - s.pos.toNat) s.capacity.toNat

/-- The chunk's bytes in scratch (R265): copied from the payload, an odd size padded with one zero byte. -/
def State.chunkBytes (s : State) : List Byte :=
  s.readPayload s.pos.toNat s.chunkSize ++ List.replicate (s.chunkSize % 2) 0

/-- The state with the chunk copied to scratch (R265). -/
def copyChunk (s : State) : State := { s with mem := writeScratch s.mem s.chunkBytes }

/-- The words of the chunk, packed from scratch (R265). -/
def State.chunkWords (s : State) : List Half :=
  pack s.byteOrder ((copyChunk s).readScratch (s.chunkSize + s.chunkSize % 2))

/-- Chunk preparation (R265): copy, pad, pack, PACKED_N, CUR_CS, `request Transmit(Samples[0 .. m))`, TX_WAIT. -/
def prepareChunk (s : State) : State :=
  { s.drawn with
    mem := writeSamples (copyChunk s).mem s.chunkWords
    packedN := BitVec.ofNat 32 ((s.chunkSize + 1) / 2)
    curCs := BitVec.ofNat 32 s.chunkSize
    treq := .transmit s.chunkWords
    seqState := .txWait }

/-- The SEND_ISSUE step (R265): complete at the end of the payload, else prepare the next chunk. -/
def sendIssueStep (s : State) : State := if s.pos = s.payloadLen then complete s else prepareChunk s

/-- The end of every TX_WAIT answer step (R268): the cursor advances on success and on failure alike. -/
def advanceChunk (s : State) : State :=
  { s with pos := s.pos + s.curCs, chunkIndex := s.chunkIndex + 1, treq := .none, seqState := .sendIssue }

/-- Transmit success (R266), before R268. -/
def transmitOk (s : State) : State :=
  emitChunk .txOk s.chunkIndex s.curCs { s with bytesSent := s.bytesSent + s.curCs }

/-- Transmit failure (R267), before R268. -/
def transmitErr (s : State) : State :=
  emitChunk .txErr s.chunkIndex 0 { s with txFails := s.txFails + 1, irqStatus := s.irqStatus ||| irqTxf }

/-- A transport answer during SEND (R262, R266 to R268). What is no answer to the outstanding request is no step and
passes (log 6). -/
def sendAnswer (a : Answer) (s : State) : State :=
  match s.treq, a with
  | .transmit _, .txOk => advanceChunk (transmitOk s)
  | .transmit _, .txErr => advanceChunk (transmitErr s)
  | _, _ => s

/-- SEND's sequencer turn (R203). -/
def sendTurn (s : State) : Host.Outcome State Fault Refusal :=
  match s.seqState with
  | .sendIssue => .next (sendIssueStep s.pop)
  | _ => otherTurn s

/-- SEND (R264): its issue clears the four counters of the cycle. -/
def execSend (s : State) : Host.Outcome State Fault Refusal :=
  match s.commandStep with
  | .issue => .next (issue .send (fun t => clearSendCounters (start .send t)) s)
  | .sequencer => sendTurn s
  | .answer a => .next (sendAnswer a s.pop)

/-- The RX_ISSUE step (R272): `request Receive(BLOCK_BYTES)`, RX_WAIT. -/
def receiveRequest (s : State) : State := { s with treq := .receive s.blockBytes.toNat, seqState := .rxWait }

/-- Receive success (R273), before the command completes or goes on to RX_ANALYZE; RX_SEQ wraps at 2^32. -/
def receiveOk (d : List Byte) (s : State) : State :=
  { emitChunk .rxOk s.rxSeq (BitVec.ofNat 32 d.length) s with
    mem := writeScratch s.mem d
    rxCount := BitVec.ofNat 32 d.length
    rxSeq := s.rxSeq + 1
    treq := .none }

/-- Receive failure (R274): Scratch is not written, the command completes. -/
def receiveErr (s : State) : State :=
  complete
    { emitChunk .rxErr s.rxSeq 0 s with
      rxCount := 0
      irqStatus := s.irqStatus ||| irqRxf
      rxSeq := s.rxSeq + 1
      treq := .none }

/-- A transport answer during RECV or RECV_ANALYZE (R262, R273, R274); `after` is what a success goes on to. An
`RxOk(m, d)` with `m > n` "is not a transport answer and has no step" (R262): it passes (log 6). -/
def receiveAnswer (after : State → State) (a : Answer) (s : State) : State :=
  match s.treq, a with
  | .receive n, .rxOk d => if d.length ≤ n then after (receiveOk d s) else s
  | .receive _, .rxErr => receiveErr s
  | _, _ => s

/-- RECV's sequencer turn (R203). -/
def recvTurn (s : State) : Host.Outcome State Fault Refusal :=
  match s.seqState with
  | .rxIssue => .next (receiveRequest s.pop)
  | _ => otherTurn s

/-- RECV (R271): a successful receive completes it. -/
def execRecv (s : State) : Host.Outcome State Fault Refusal :=
  match s.commandStep with
  | .issue => .next (issue .recv (start .recv) s)
  | .sequencer => recvTurn s
  | .answer a => .next (receiveAnswer complete a s.pop)

/-- A successful RECV_ANALYZE goes on to RX_ANALYZE (R273). -/
def toRxAnalyze (s : State) : State := { s with seqState := .rxAnalyze }

/-- RECV_ANALYZE's sequencer turn (R203): the request, then the analysis of `BLOCK_BYTES` bytes (R277). -/
def recvAnalyzeTurn (s : State) : Host.Outcome State Fault Refusal :=
  match s.seqState with
  | .rxIssue => .next (receiveRequest s.pop)
  | .rxAnalyze => .next (complete (analyseAction s.blockBytes.toNat s.pop))
  | _ => otherTurn s

/-- RECV_ANALYZE (R276). -/
def execRecvAnalyze (s : State) : Host.Outcome State Fault Refusal :=
  match s.commandStep with
  | .issue => .next (issue .recvAnalyze (start .recvAnalyze) s)
  | .sequencer => recvAnalyzeTurn s
  | .answer a => .next (receiveAnswer toRxAnalyze a s.pop)

end Sys2Proof.Machine
end

