-- ==== Sys2Proof/Machine/Dispatch.lean ====
section
/-! DEFINITION. One arm per command: the step of that command which the moving agent takes. -/

namespace Sys2Proof.Machine

def exec (i : Instr) (s : State) : Host.Outcome State Fault Refusal :=
  match i with
  | .nop => Sys2Proof.Machine.execNop s
  | .pack l => Sys2Proof.Machine.execPack l s
  | .unpack k => Sys2Proof.Machine.execUnpack k s
  | .send => Sys2Proof.Machine.execSend s
  | .recv => Sys2Proof.Machine.execRecv s
  | .recvAnalyze => Sys2Proof.Machine.execRecvAnalyze s
  | .analyze l => Sys2Proof.Machine.execAnalyze l s

end Sys2Proof.Machine
end

