-- ==== Sys2Proof/Machine/Registers.lean ====
section
/-! DEFINITION. The register block (10_state.md section 3): names, offsets, access, reads and writes. -/

namespace Sys2Proof.Machine

/-- The control registers, in the order of their offsets (10_state.md section 3). -/
inductive Reg where
  | id | ctrl | status | cmd | err | errCmd | irqStatus | irqEnable
  | cfg | capacity | blockBytes | payloadLen | noiseThr | moderateBp | strongBp | activeBp | sampleRate
  | pos | bytesSent | chunkIndex | txFails | lastOutcome | lastIndex | lastBytes | rxSeq | rxCount | packedN
  | stSampleCount | stActiveCount | stSumAbs | stMaxAbs | stMin | stAvgAbs | stActiveRatio | stClass
  | paramScratch | paramPayload
  deriving DecidableEq, Repr

/-- The offset of each register (10_state.md section 3). -/
def Reg.offset : Reg → Nat
  | .id => 0x000
  | .ctrl => 0x004
  | .status => 0x008
  | .cmd => 0x00C
  | .err => 0x010
  | .errCmd => 0x014
  | .irqStatus => 0x018
  | .irqEnable => 0x01C
  | .cfg => 0x020
  | .capacity => 0x024
  | .blockBytes => 0x028
  | .payloadLen => 0x02C
  | .noiseThr => 0x030
  | .moderateBp => 0x034
  | .strongBp => 0x038
  | .activeBp => 0x03C
  | .sampleRate => 0x040
  | .pos => 0x044
  | .bytesSent => 0x048
  | .chunkIndex => 0x04C
  | .txFails => 0x050
  | .lastOutcome => 0x054
  | .lastIndex => 0x058
  | .lastBytes => 0x05C
  | .rxSeq => 0x060
  | .rxCount => 0x064
  | .packedN => 0x068
  | .stSampleCount => 0x06C
  | .stActiveCount => 0x070
  | .stSumAbs => 0x074
  | .stMaxAbs => 0x078
  | .stMin => 0x07C
  | .stAvgAbs => 0x080
  | .stActiveRatio => 0x084
  | .stClass => 0x088
  | .paramScratch => 0x08C
  | .paramPayload => 0x090

/-- The control, status, error and interrupt registers. -/
def Reg.controls : List Reg := [.id, .ctrl, .status, .cmd, .err, .errCmd, .irqStatus, .irqEnable]

/-- The configuration registers. -/
def Reg.configs : List Reg :=
  [.cfg, .capacity, .blockBytes, .payloadLen, .noiseThr, .moderateBp, .strongBp, .activeBp, .sampleRate]

/-- The progress registers. -/
def Reg.progress : List Reg :=
  [.pos, .bytesSent, .chunkIndex, .txFails, .lastOutcome, .lastIndex, .lastBytes, .rxSeq, .rxCount, .packedN]

/-- The statistics and parameter registers. -/
def Reg.results : List Reg :=
  [.stSampleCount, .stActiveCount, .stSumAbs, .stMaxAbs, .stMin, .stAvgAbs, .stActiveRatio, .stClass, .paramScratch,
    .paramPayload]

/-- Every register, in the order of the offsets. -/
def Reg.all : List Reg := Reg.controls ++ Reg.configs ++ Reg.progress ++ Reg.results

/-- The register at an offset; an offset without one is reserved (R75). -/
def Reg.at (offset : Nat) : Option Reg := Reg.all.find? (fun r => r.offset == offset)

/-- Whether the register is a configuration register, one R212 protects while BUSY. -/
def Reg.isConfig : Reg → Bool
  | .cfg | .capacity | .blockBytes | .payloadLen | .noiseThr | .moderateBp | .strongBp | .activeBp | .sampleRate => true
  | .id | .ctrl | .status | .cmd | .err | .errCmd | .irqStatus | .irqEnable => false
  | .pos | .bytesSent | .chunkIndex | .txFails | .lastOutcome | .lastIndex | .lastBytes | .rxSeq | .rxCount => false
  | .packedN | .stSampleCount | .stActiveCount | .stSumAbs | .stMaxAbs | .stMin | .stAvgAbs | .stActiveRatio => false
  | .stClass | .paramScratch | .paramPayload => false

/-- Whether the register is read-only (access code RO of 10_state.md section 3). -/
def Reg.isReadOnly : Reg → Bool
  | .id | .status | .err | .errCmd => true
  | .pos | .bytesSent | .chunkIndex | .txFails | .lastOutcome | .lastIndex | .lastBytes | .rxSeq | .rxCount => true
  | .packedN | .stSampleCount | .stActiveCount | .stSumAbs | .stMaxAbs | .stMin | .stAvgAbs | .stActiveRatio => true
  | .stClass | .paramScratch | .paramPayload => true
  | .ctrl | .cmd | .irqStatus | .irqEnable | .cfg | .capacity | .blockBytes | .payloadLen | .noiseThr => false
  | .moderateBp | .strongBp | .activeBp | .sampleRate => false

/-- What a host read of a register returns (R40 to R74). -/
def readReg (s : State) : Reg → Word
  | .id => 0x41535031
  | .ctrl => 0
  | .status => s.statusWord
  | .cmd => 0
  | .err => s.errWord
  | .errCmd => s.errCmd
  | .irqStatus => s.irqStatus.setWidth 32
  | .irqEnable => s.irqEnable.setWidth 32
  | .cfg => s.byteOrder.code.setWidth 32
  | .capacity => s.capacity
  | .blockBytes => s.blockBytes
  | .payloadLen => s.payloadLen
  | .noiseThr => s.noiseThr
  | .moderateBp => s.moderateBp
  | .strongBp => s.strongBp
  | .activeBp => s.activeBp
  | .sampleRate => s.sampleRate
  | .pos => s.pos
  | .bytesSent => s.bytesSent
  | .chunkIndex => s.chunkIndex
  | .txFails => s.txFails
  | .lastOutcome => s.lastOutcome.code.setWidth 32
  | .lastIndex => s.lastIndex
  | .lastBytes => s.lastBytes
  | .rxSeq => s.rxSeq
  | .rxCount => s.rxCount
  | .packedN => s.packedN
  | .stSampleCount => s.stats.sampleCount
  | .stActiveCount => s.stats.activeCount
  | .stSumAbs => s.stats.sumAbs
  | .stMaxAbs => s.stats.maxAbs
  | .stMin => s.stats.minRaw
  | .stAvgAbs => s.stats.avgAbs
  | .stActiveRatio => s.stats.activeRatio
  | .stClass => s.stats.strength.code.setWidth 32
  | .paramScratch => BitVec.ofNat 32 s.params.scratchBytes
  | .paramPayload => BitVec.ofNat 32 s.params.payloadBytes

/-- A write to a configuration register while the block is idle (R48 to R54): all 32 bits are stored, but for CFG,
whose bits 31..1 are RAZ/WI; legality is checked at issue. A register of another kind is left alone. -/
def setConfig (r : Reg) (v : Word) (s : State) : State :=
  match r with
  | .cfg => { s with byteOrder := ByteOrder.ofBit (v.getLsbD 0) }
  | .capacity => { s with capacity := v }
  | .blockBytes => { s with blockBytes := v }
  | .payloadLen => { s with payloadLen := v }
  | .noiseThr => { s with noiseThr := v }
  | .moderateBp => { s with moderateBp := v }
  | .strongBp => { s with strongBp := v }
  | .activeBp => { s with activeBp := v }
  | .sampleRate => { s with sampleRate := v }
  | .id | .ctrl | .status | .cmd | .err | .errCmd | .irqStatus | .irqEnable => s
  | .pos | .bytesSent | .chunkIndex | .txFails | .lastOutcome | .lastIndex | .lastBytes | .rxSeq | .rxCount => s
  | .packedN | .stSampleCount | .stActiveCount | .stSumAbs | .stMaxAbs | .stMin | .stAvgAbs | .stActiveRatio => s
  | .stClass | .paramScratch | .paramPayload => s

/-- The write of a value while BUSY where R212 drops it: WRITE_BUSY with the bus address; else it is performed. -/
def unlessBusy (addr : Word) (perform : State → State) (s : State) : State :=
  if s.busy then cmdError .writeBusy addr s else perform s

/-- A write to CTRL (R41): bit 0 is SRST, the rest is ignored. -/
def writeCtrl (addr v : Word) (s : State) : State := if v.getLsbD 0 then unlessBusy addr softReset s else s

/-- A host write to a register other than CMD (R41, R46 to R54, R212); a write to a read-only register is ignored
(R114). A write to CMD is the issue of a command, which `fetch` hands to `exec` before it can come here. -/
def writeReg (r : Reg) (addr v : Word) (s : State) : State :=
  match r with
  | .ctrl => writeCtrl addr v s
  | .irqStatus => acknowledge (v.extractLsb' 0 4) s
  | .irqEnable => { s with irqEnable := v.extractLsb' 0 4 }
  | .cfg | .capacity | .blockBytes | .payloadLen | .noiseThr => unlessBusy addr (setConfig r v) s
  | .moderateBp | .strongBp | .activeBp | .sampleRate => unlessBusy addr (setConfig r v) s
  | .id | .status | .cmd | .err | .errCmd => s
  | .pos | .bytesSent | .chunkIndex | .txFails | .lastOutcome | .lastIndex | .lastBytes | .rxSeq | .rxCount => s
  | .packedN | .stSampleCount | .stActiveCount | .stSumAbs | .stMaxAbs | .stMin | .stAvgAbs | .stActiveRatio => s
  | .stClass | .paramScratch | .paramPayload => s

end Sys2Proof.Machine
end

