-- ==== Sys2Proof/Machine/HostBus.lean ====
section
/-! DEFINITION. The host bus (20_memory.md R100 to R114): the address map, the bus checks, and the accesses that are
not the issue of a command. -/

namespace Sys2Proof.Machine

/-- The access width in bytes. -/
def Size.bytes : Size → Nat
  | .byte => 1
  | .half => 2
  | .word => 4

/-- What a populated address is (R101). -/
inductive Target where
  | reg (r : Reg)
  /-- A window; the bytes keep their bus address. -/
  | window
  deriving DecidableEq, Repr

/-- Every byte of `[a, a + n)` lies in a populated part of one window (R101). -/
def inWindow (p : Params) (a n : Nat) : Bool :=
  (decide (scratchBase ≤ a) && decide (a + n ≤ scratchBase + p.scratchBytes))
    || (decide (sampleBase ≤ a) && decide (a + n ≤ sampleBase + p.scratchBytes))
    || (decide (payloadBase ≤ a) && decide (a + n ≤ payloadBase + p.payloadBytes))

/-- The bus checks (R101, R110, R111, R75): the target of an access, or none for a bus error (R112). -/
def busTarget (p : Params) (size : Size) (addr : Word) : Option Target :=
  if addr.toNat % size.bytes ≠ 0 then none
  else if addr.toNat < scratchBase then
    match size with
    | .word => (Reg.at addr.toNat).map .reg
    | .half | .byte => none
  else if inWindow p addr.toNat size.bytes then some .window
  else none

/-- The value of bytes, the lowest address least significant (R106). -/
def ofBytes : List Byte → Nat
  | [] => 0
  | b :: r => b.toNat + 256 * ofBytes r

/-- The `n` low bytes of a value, the least significant first (R106). -/
def toBytes : Nat → Nat → List Byte
  | 0, _ => []
  | n + 1, v => BitVec.ofNat 8 v :: toBytes n (v / 256)

/-- The value a window read returns (R104, R106). -/
def windowValue (s : State) (size : Size) (addr : Word) : Word :=
  BitVec.ofNat 32 (ofBytes (Memory.readList s.draws s.mem addr.toNat size.bytes))

/-- The bytes a window write stores (R104, R106). -/
def writeWindow (size : Size) (addr v : Word) (s : State) : State :=
  { s with mem := Memory.writeList s.mem addr.toNat (toBytes size.bytes v.toNat) }

/-- A host read (R104, R110, R114): it changes no state of the block. A window read uses up its draws (log 1). -/
def hostRead (size : Size) (addr : Word) (s : State) : State :=
  match busTarget s.params size addr with
  | some (.reg r) => s.answerHost (.value (readReg s r))
  | some .window => (s.answerHost (.value (windowValue s size addr))).drawn
  | none => s.answerHost .busError

/-- A host write (R104, R110, R212, R405): the bus checks come first. -/
def hostWrite (size : Size) (addr v : Word) (s : State) : State :=
  match busTarget s.params size addr with
  | some (.reg r) => writeReg r addr v (s.answerHost .ack)
  | some .window => unlessBusy addr (writeWindow size addr v) (s.answerHost .ack)
  | none => s.answerHost .busError

/-- A host access that issues no command. -/
def hostAccess (a : HostAccess) (s : State) : State :=
  match a with
  | .read size addr => hostRead size addr s
  | .write size addr v => hostWrite size addr v s

end Sys2Proof.Machine
end

