-- ==== Sys2Proof/Machine/Fetch.lean ====
section
/-! DEFINITION. What the next step is: the command it belongs to, or the other thing it does (00_scope.md R8,
20_memory.md R118, 40_common.md R201, R207). -/

namespace Sys2Proof.Machine

/-- The word a host access issues, if it is a 32-bit write to CMD (R43, R150). -/
def HostAccess.commandWord : HostAccess → Option Word
  | .write .word addr v => if addr = 0x0000000C then some v else none
  | .write .half _ _ | .write .byte _ _ | .read _ _ => none

/-- The command being executed, from its latched opcode and argument (R80). -/
def State.current (s : State) : Decoded := decode (s.curArg ++ s.curOp)

/-- What the next step is. -/
inductive Turn where
  /-- A step of a command: its issue, or, while BUSY, its next sequencer or transport step. -/
  | command (i : Instr)
  /-- The issue of a word that is no command. -/
  | illegal (c : Word)
  /-- Another host access. -/
  | bus (a : HostAccess)
  /-- Power-on reset. -/
  | powerOn
  /-- The sequencer's or transport's turn while IDLE: neither has a step (R207). -/
  | pass
  /-- BUSY with a latched word that is no command (unreachable, log 7). -/
  | stuck
  deriving DecidableEq, Repr

/-- The turn of a busy block whose sequencer or transport moves: the latched command's. -/
def State.commandTurn (s : State) : Turn :=
  match s.current with
  | .command i => .command i
  | .illegal _ => .stuck

/-- The turn a host access makes. -/
def hostTurn (a : HostAccess) : Turn :=
  match a.commandWord with
  | none => .bus a
  | some c =>
    match decode c with
    | .command i => .command i
    | .illegal _ => .illegal c

/-- What the next step is. With no input left it is the sequencer's (log 4). -/
def fetch (s : State) : Turn :=
  match s.inputs with
  | .powerOnReset :: _ => .powerOn
  | .host a :: _ => hostTurn a
  | .sequencer :: _ | .transport _ :: _ | [] => if s.busy then s.commandTurn else .pass

/-- The input that issues command word `c` (R157: `WR CMD, c`). -/
def cmdWrite (c : Word) : Input := .host (.write .word 0x0000000C c)

end Sys2Proof.Machine
end

