-- ==== Sys2Proof/Machine/Step.lean ====
section
/-! DEFINITION. One step of the machine: one atomic step of one agent (20_memory.md R118). -/

namespace Sys2Proof.Machine

/-- One atomic step (R118): a step of a command, or what `fetch` says else. -/
def step (s : State) : Host.Outcome State Fault Refusal :=
  match fetch s with
  | .command i => exec i s
  | .illegal c => .next (issueIllegal c s)
  | .bus a => .next (hostAccess a s)
  | .powerOn => .next (powerOnReset s.pop)
  | .pass => .next s.pop
  | .stuck => .fault .noTransition

/-- The instruction of `nbits` bits `w` is what the machine takes next: the host's write of that word to CMD becomes
the next input (log 5). -/
def State.withFetchWord (s : State) (nbits w : Nat) : State :=
  { s with inputs := cmdWrite (tableWord nbits w) :: s.inputs }

end Sys2Proof.Machine
end

