-- ==== Sys2Proof/Safety.lean ====
section
/-! DEFINITION. What a sound state is (the invariant `Inv`, which every step keeps and from which no step stops), and
the terms the statements are written in: the spec's own pseudocode of issue, runs of several steps, populated bytes,
and the value of a binary32 pattern. -/

namespace Sys2Proof.Machine

/-- The present step is the sequencer's or the transport's (the sequencer's also when no input is left): neither the
host nor the reset input moves. -/
def State.blockTurn (s : State) : Bool :=
  match s.inputs with
  | .host _ :: _ | .powerOnReset :: _ => false
  | .sequencer :: _ | .transport _ :: _ | [] => true

/-- The byte address lies in a populated part of a window (R101). -/
abbrev PopulatedByte (p : Params) (a : Nat) : Prop :=
  (0x00010000 ≤ a ∧ a < 0x00010000 + p.scratchBytes) ∨ (0x00020000 ≤ a ∧ a < 0x00020000 + p.scratchBytes)
    ∨ (0x01000000 ≤ a ∧ a < 0x01000000 + p.payloadBytes)

/-- An access the bus performs (R101, R110, R111): a word access to a register offset below 0x094, or a window access
of which every byte is populated; naturally aligned. -/
abbrev GoodAccess (p : Params) (size : Size) (addr : Word) : Prop :=
  addr.toNat % size.bytes = 0 ∧
    ((size = .word ∧ addr.toNat < 0x094) ∨ ∀ j < size.bytes, PopulatedByte p (addr.toNat + j))

/-- The size and the address of an access. -/
def HostAccess.place : HostAccess → Size × Word
  | .read size addr => (size, addr)
  | .write size addr _ => (size, addr)

/-- R201's checks, in its order and its terms; `noError` where none fails. -/
def issueCheck (c : Word) (s : State) : ErrCode :=
  if s.seqState ≠ .idle then .cmdBusy
  else if (opField c).toNat ∉ [0x00, 0x01, 0x02, 0x10, 0x20, 0x21, 0x30] then .illegalCmd
  else if (opField c).toNat ∈ [0x00, 0x10, 0x20, 0x21] ∧ (argField c).toNat ≠ 0 then .illegalCmd
  else if (opField c).toNat ≠ 0x00 ∧ ¬ s.capOk then .badConfig
  else if (opField c).toNat = 0x10 ∧ s.params.payloadBytes < s.payloadLen.toNat then .badConfig
  else if (opField c).toNat ∈ [0x20, 0x21] ∧ s.capacity.toNat < s.blockBytes.toNat then .badConfig
  else if (opField c).toNat ∈ [0x01, 0x30] ∧ s.capacity.toNat < (argField c).toNat then .badArg
  else if (opField c).toNat = 0x02 ∧ s.capacity.toNat / 2 < (argField c).toNat then .badArg
  else .noError

/-- The offset and the value of every control register but STATUS and ERR (R40 to R74): ID is "ASP1", CTRL and CMD read
0, the bits a register does not have read 0, and enumerations read their codes. -/
def registerValues (s : State) : List (Nat × Word) :=
  [(0x000, 0x41535031), (0x004, 0), (0x00C, 0), (0x014, s.errCmd), (0x018, 0#28 ++ s.irqStatus),
    (0x01C, 0#28 ++ s.irqEnable), (0x020, match s.byteOrder with | .little => 0 | .big => 1), (0x024, s.capacity),
    (0x028, s.blockBytes), (0x02C, s.payloadLen), (0x030, s.noiseThr), (0x034, s.moderateBp), (0x038, s.strongBp),
    (0x03C, s.activeBp), (0x040, s.sampleRate), (0x044, s.pos), (0x048, s.bytesSent), (0x04C, s.chunkIndex)] ++
  [(0x050, s.txFails),
    (0x054, match s.lastOutcome with
      | .noOutcome => 0
      | .outcome .txOk => 1
      | .outcome .txErr => 2
      | .outcome .rxOk => 3
      | .outcome .rxErr => 4),
    (0x058, s.lastIndex), (0x05C, s.lastBytes), (0x060, s.rxSeq), (0x064, s.rxCount), (0x068, s.packedN),
    (0x06C, s.stats.sampleCount), (0x070, s.stats.activeCount), (0x074, s.stats.sumAbs), (0x078, s.stats.maxAbs),
    (0x07C, s.stats.minRaw), (0x080, s.stats.avgAbs), (0x084, s.stats.activeRatio),
    (0x088, match s.stats.strength with | .none => 0 | .weak => 1 | .moderate => 2 | .strong => 3),
    (0x08C, BitVec.ofNat 32 s.params.scratchBytes), (0x090, BitVec.ofNat 32 s.params.payloadBytes)]

/-- The state after a host access answered by an acknowledgement that raised `CmdError(code, info)` (R402). -/
def raised (code : ErrCode) (info : Word) (s : State) : State :=
  { s with
    inputs := s.inputs.tail
    hostResp := .ack
    errCode := if s.errCode = .noError then code else s.errCode
    errCmd := if s.errCode = .noError then info else s.errCmd
    errOvf := if s.errCode = .noError then s.errOvf else true
    irqStatus := s.irqStatus ||| 0b0010#4 }

/-- The state after the accepted issue of `c` (R205, R264). -/
def started (c : Word) (s : State) : State :=
  { s with
    inputs := s.inputs.tail
    hostResp := .ack
    curOp := opField c
    curArg := argField c
    seqState :=
      if opField c = 0x10 then .sendIssue
      else if opField c = 0x20 ∨ opField c = 0x21 then .rxIssue
      else .exec
    pos := if opField c = 0x10 then 0 else s.pos
    bytesSent := if opField c = 0x10 then 0 else s.bytesSent
    chunkIndex := if opField c = 0x10 then 0 else s.chunkIndex
    txFails := if opField c = 0x10 then 0 else s.txFails }

/-- `k` steps, stopping at the first fault or refusal. -/
def runSteps : Nat → State → Host.Outcome State Fault Refusal
  | 0, s => .next s
  | k + 1, s =>
    match step s with
    | .next t => runSteps k t
    | .fault r => .fault r
    | .refused r => .refused r

/-- The turns of a SEND cycle after its issue: for each chunk a sequencer step and an answer (`true` for TxOk), then
the sequencer step that completes. -/
def sendTurns : List Bool → List Input → List Input
  | [], rest => .sequencer :: rest
  | ok :: oks, rest => .sequencer :: .transport (if ok then .txOk else .txErr) :: sendTurns oks rest

/-- The size of chunk `k` of a payload of `n` bytes at capacity `c` (R269). -/
def chunkSizeAt (n c k : Nat) : Nat := min (n - k * c) c

/-- The bytes of the chunks from `k` on that the answers `oks` select. -/
def selectedBytes (n c : Nat) : Nat → List Bool → Nat
  | _, [] => 0
  | k, ok :: oks => (if ok then chunkSizeAt n c k else 0) + selectedBytes n c (k + 1) oks

/-- The per-chunk reports of the chunks from `k` on, one per answer (R281). -/
def sendReports (n c : Nat) : Nat → List Bool → List Report
  | _, [] => []
  | k, ok :: oks =>
    (if ok then .chunk .txOk (BitVec.ofNat 32 k) (BitVec.ofNat 32 (chunkSizeAt n c k))
      else .chunk .txErr (BitVec.ofNat 32 k) 0) :: sendReports n c (k + 1) oks

/-- The value of a finite binary32 pattern with sign 0 (93_implementation_defined.md section 2). -/
def binary32Value (w : Word) : ℚ :=
  if w.toNat / 2 ^ 23 = 0 then (w.toNat : ℚ) / 2 ^ 149
  else ((2 ^ 23 + w.toNat % 2 ^ 23 : ℕ) : ℚ) * 2 ^ (w.toNat / 2 ^ 23) / 2 ^ 150

/-- The progress of a SEND cycle (R264 to R269): the cursor stays inside the payload, which fits the payload memory;
after CHUNK_INDEX chunks it stands at their end; BYTES_SENT is all of it when no chunk has failed and nothing when
every chunk has. -/
abbrev State.SendProgress (s : State) : Prop :=
  s.payloadLen.toNat ≤ s.params.payloadBytes ∧ s.pos.toNat ≤ s.payloadLen.toNat ∧
    (s.pos.toNat = s.chunkIndex.toNat * s.capacity.toNat ∨
      (s.pos = s.payloadLen ∧
        s.chunkIndex.toNat = (s.payloadLen.toNat + s.capacity.toNat - 1) / s.capacity.toNat)) ∧
    s.chunkIndex.toNat ≤ s.pos.toNat ∧
    s.bytesSent.toNat ≤ s.pos.toNat ∧ s.txFails.toNat ≤ s.chunkIndex.toNat ∧
    (s.txFails = 0 → s.bytesSent = s.pos) ∧ (s.txFails = s.chunkIndex → s.bytesSent = 0)

/-- The configuration a receive command needs (R201). -/
abbrev State.ReceiveOk (s : State) : Prop := s.capOk ∧ s.blockBytes.toNat ≤ s.capacity.toNat

/-- What holds of an EXEC state's command (R201, R206): it is one of the four, with a legal configuration and
argument. -/
abbrev State.ExecOk (s : State) : Prop :=
  match s.current with
  | .command .nop => True
  | .command (.pack l) => s.capOk ∧ l ≤ s.capacity.toNat
  | .command (.unpack k) => s.capOk ∧ k ≤ s.capacity.toNat / 2
  | .command (.analyze l) => s.capOk ∧ l ≤ s.capacity.toNat
  | .command .send | .command .recv | .command .recvAnalyze => False
  | .illegal _ => False

/-- SEQ_STATE, the latched command and TREQ agree (R82, R203, R205): TREQ is outstanding exactly in the two WAIT
states, and the legality the issue checked still holds. -/
abbrev State.PhaseOk (s : State) : Prop :=
  match s.seqState with
  | .idle => s.treq = .none
  | .exec => s.treq = .none ∧ s.ExecOk
  | .sendIssue => s.treq = .none ∧ s.current = .command .send ∧ s.capOk ∧ s.SendProgress
  | .txWait =>
    (match s.treq with
      | .transmit words => words.length = (s.curCs.toNat + 1) / 2
      | .none | .receive _ => False) ∧
    s.current = .command .send ∧ s.capOk ∧ s.SendProgress ∧ s.pos.toNat < s.payloadLen.toNat ∧
    s.curCs.toNat = s.chunkSize
  | .rxIssue => s.treq = .none ∧ (s.current = .command .recv ∨ s.current = .command .recvAnalyze) ∧ s.ReceiveOk
  | .rxWait =>
    s.treq = .receive s.blockBytes.toNat ∧ (s.current = .command .recv ∨ s.current = .command .recvAnalyze) ∧
      s.ReceiveOk
  | .rxAnalyze => s.treq = .none ∧ s.current = .command .recvAnalyze ∧ s.ReceiveOk

/-- ERR, ERR_CMD and IRQ_STATUS.ERR agree (R44, R45, R46, R402): an error is recorded exactly while its pending bit is
set, and without one the overflow bit and ERR_CMD are 0. -/
abbrev State.ErrorOk (s : State) : Prop :=
  (s.errCode = .noError ↔ s.irqStatus &&& 0b0010#4 = 0) ∧ (s.errCode = .noError → s.errOvf = false ∧ s.errCmd = 0)

/-- The ranges of the ST_* registers (R65 to R70), and that they hold the values of an empty analysis until the first
analysis (R42, R451). -/
abbrev State.StatsOk (s : State) : Prop :=
  s.stats.sampleCount.toNat ≤ s.params.scratchBytes / 2 ∧
    s.stats.activeCount.toNat ≤ s.stats.sampleCount.toNat ∧
    s.stats.sumAbs.toNat ≤ 32768 * s.stats.sampleCount.toNat ∧
    s.stats.maxAbs.toNat ≤ 32768 ∧ s.stats.avgAbs.toNat ≤ 32768 ∧
    -32768 ≤ s.stats.minRaw.toInt ∧ s.stats.minRaw.toInt ≤ 32767 ∧
    (s.statsValid = false → s.stats = AudioStats.empty)

/-- Memory is in its canonical form and lists only populated bytes (R101, R115). -/
abbrev State.MemoryOk (s : State) : Prop :=
  Memory.wf s.mem = true ∧ ∀ x ∈ s.mem, PopulatedByte s.params x.1

/-- A sound state. -/
abbrev State.Inv (s : State) : Prop :=
  s.params.Legal ∧ s.MemoryOk ∧ s.PhaseOk ∧ s.ErrorOk ∧ s.StatsOk

end Sys2Proof.Machine
end

