-- ==== Sys2Proof/Certificates/Slice0/Obligations.lean ====
section
/-! DEFINITION. The statements for the provers. Each says which rule of spec/ it formalises; "derived" where it rests on
several rules or on a choice of the model. A next state is written as the state before it with the changed fields, so
that every other field is said to be unchanged; a memory result is said byte by byte. -/

open Sys2Proof Sys2Proof.Machine

/-! ### Encoding -/

/-- R155: the spec's encoding examples, its own inference from R150 and R153, both ways. -/
def Obligations.SpecExampleWords : Prop :=
  encode (.pack 5) = 0x00000501 ∧ decode 0x00000501 = .command (.pack 5) ∧
  encode (.unpack 3) = 0x00000302 ∧ decode 0x00000302 = .command (.unpack 3) ∧
  encode (.analyze 8) = 0x00000830 ∧ decode 0x00000830 = .command (.analyze 8) ∧
  encode .send = 0x00000010 ∧ decode 0x00000010 = .command .send ∧
  encode .recv = 0x00000020 ∧ decode 0x00000020 = .command .recv ∧
  encode .recvAnalyze = 0x00000021 ∧ decode 0x00000021 = .command .recvAnalyze ∧
  encode .nop = 0x00000000 ∧ decode 0x00000000 = .command .nop ∧
  decode 0x00000110 = .illegal .argNotZero ∧ decode 0x00000003 = .illegal .unknownOpcode

/-- Decoding the word of a well-formed command gives the command back, with every argument (R150, R153, R156). -/
def Obligations.DecodeOfEncodeIsTheCommand : Prop :=
  ∀ i : Instr, i.WellFormed → decode (encode i) = .command i

/-- A word that decodes to a command is that command's only word: no bit of it is dropped (R150, R153, R156). -/
def Obligations.EncodeOfDecodedIsTheWord : Prop :=
  ∀ (c : Word) (i : Instr), decode c = .command i → encode i = c ∧ i.WellFormed

/-- R153: the opcode map by its match and mask columns. A word decodes to a row's command exactly when it selects the
row, with ARG in bits 31..8, and at most one row matches any word (the spec's own inference there). -/
def Obligations.OpcodeMapByMatchAndMask : Prop :=
  ∀ c : Word,
    (decode c = .command .nop ↔ c &&& 0xFFFFFFFF#32 = 0x00000000) ∧
    (∀ l, decode c = .command (.pack l) ↔ c &&& 0x000000FF#32 = 0x00000001 ∧ l = (c >>> 8).toNat) ∧
    (∀ k, decode c = .command (.unpack k) ↔ c &&& 0x000000FF#32 = 0x00000002 ∧ k = (c >>> 8).toNat) ∧
    (decode c = .command .send ↔ c &&& 0xFFFFFFFF#32 = 0x00000010) ∧
    (decode c = .command .recv ↔ c &&& 0xFFFFFFFF#32 = 0x00000020) ∧
    (decode c = .command .recvAnalyze ↔ c &&& 0xFFFFFFFF#32 = 0x00000021) ∧
    (∀ l, decode c = .command (.analyze l) ↔ c &&& 0x000000FF#32 = 0x00000030 ∧ l = (c >>> 8).toNat) ∧
    ∀ r₁ ∈ opTable, ∀ r₂ ∈ opTable, c &&& r₁.mask = r₁.value → c &&& r₂.mask = r₂.value → r₁ = r₂

/-- R154: which words are illegal, and that issuing one at an idle block raises ILLEGAL_CMD and executes nothing.
That the rejected write is acknowledged on the bus (hostResp is .ack, in `raised`) is the model's choice (log 8, DEDUCED
and unsafe), not the spec's. -/
def Obligations.IllegalWordsExecuteNothing : Prop :=
  ∀ c : Word,
    ((∃ e, decode c = .illegal e) ↔
      ((opField c).toNat ∉ [0x00, 0x01, 0x02, 0x10, 0x20, 0x21, 0x30] ∨
        ((opField c).toNat ∈ [0x00, 0x10, 0x20, 0x21] ∧ (argField c).toNat ≠ 0))) ∧
    ∀ (s : State) (e : DecodeError), decode c = .illegal e → s.seqState = .idle →
      s.inputs.head? = some (cmdWrite c) → step s = .next (raised .illegalCmd c s)

/-! ### Steps and issue -/

/-- A step on a host write of a command's word to CMD is that command's step (R43, R201). -/
def Obligations.StepRunsTheIssuedCommand : Prop :=
  ∀ (s : State) (c : Word) (i : Instr), s.inputs.head? = some (cmdWrite c) → decode c = .command i → step s = exec i s

/-- While the block is busy, a sequencer or transport step is a step of the latched command (R80, R203, R208). -/
def Obligations.StepRunsTheLatchedCommand : Prop :=
  ∀ (s : State) (i : Instr), s.blockTurn = true → s.seqState ≠ .idle → decode (s.curArg ++ s.curOp) = .command i →
    step s = exec i s

/-- `withFetchWord` makes the next step run the instruction that the decoder reads from the word (log 5). -/
def Obligations.FetchWordIsRunNext : Prop :=
  ∀ (s : State) (nbits w : Nat) (i : Instr), decodeTableWord nbits w = some i →
    step (s.withFetchWord nbits w) = exec i (s.withFetchWord nbits w)

/-- R207: the sequencer has an enabled step exactly in SEQ_STATE 1, 2, 4 and 6, and the transport exactly in 3 and 5,
where a request is outstanding. In a sound state the turn of one that has none changes nothing (log 6), and an enabled
one moves SEQ_STATE. The host always has one: its turn is taken. -/
def Obligations.OnlyEnabledAgentsStep : Prop :=
  ∀ s : State, s.Inv →
    (s.treq ≠ .none ↔ s.seqState ∈ [.txWait, .rxWait]) ∧
    ((s.inputs = [] ∨ s.inputs.head? = some .sequencer) → s.seqState ∈ [.idle, .txWait, .rxWait] →
      step s = .next s.pop) ∧
    (∀ a, s.inputs.head? = some (.transport a) → s.seqState ∉ [.txWait, .rxWait] → step s = .next s.pop) ∧
    ((s.inputs = [] ∨ s.inputs.head? = some .sequencer) → s.seqState ∉ [.idle, .txWait, .rxWait] →
      ∃ t, step s = .next t ∧ t.seqState ≠ s.seqState) ∧
    (∀ a, s.inputs.head? = some (.transport a) →
      (s.seqState = .txWait ∧ (a = .txOk ∨ a = .txErr)) ∨
        (s.seqState = .rxWait ∧ (a = .rxErr ∨ ∃ d, a = .rxOk d ∧ d.length ≤ s.blockBytes.toNat)) →
      ∃ t, step s = .next t ∧ t.seqState ≠ s.seqState) ∧
    (∀ a, s.inputs.head? = some (.host a) → ∃ t, step s = .next t ∧ t.hostResp ≠ .none)

/-- R201, R202, R205: the issue of any word runs the checks of R201 in its order; the first that fails raises its
error and changes nothing else, and if none fails the command is started in the same step. That the write is
acknowledged on the bus (hostResp is .ack, in `raised` and `started`), and for a rejected command so too, is the
model's choice (log 8; for the rejected one DEDUCED and unsafe), not the spec's. -/
def Obligations.IssueFollowsTheCheckOrder : Prop :=
  ∀ (s : State) (c : Word), s.inputs.head? = some (cmdWrite c) →
    step s = .next (if issueCheck c s = .noError then started c s else raised (issueCheck c s) c s)

/-- Every well-formed command whose checks pass (R201, R204, R206) is started by its issue (R205, R264): the block
becomes busy with it, and only SEND clears its four counters. How the bus answers the accepted write (hostResp is
.ack, in `started`) is the model's field (log 8). -/
def Obligations.AcceptedIssueStartsTheCommand : Prop :=
  ∀ (i : Instr) (s : State), i.WellFormed → s.commandStep = .issue → s.seqState = .idle →
    (i ≠ .nop → s.capOk) → (i = .send → s.payloadLen.toNat ≤ s.params.payloadBytes) →
    (i = .recv ∨ i = .recvAnalyze → s.blockBytes.toNat ≤ s.capacity.toNat) →
    (∀ l, i = .pack l ∨ i = .analyze l → l ≤ s.capacity.toNat) →
    (∀ k, i = .unpack k → k ≤ s.capacity.toNat / 2) →
    exec i s = .next (started (encode i) s)

/-- R401 code 2, R402: a command issued while the block is busy, whatever it is, raises CMD_BUSY: the first error is
kept, a later one only sets ERR_OVF, and the running command is unaffected. That the refused write is acknowledged on
the bus (hostResp is .ack, in `raised`) is the model's choice (log 8, DEDUCED and unsafe), not the spec's. -/
def Obligations.CommandWhileBusyIsRefused : Prop :=
  ∀ (i : Instr) (s : State), s.commandStep = .issue → s.seqState ≠ .idle →
    exec i s = .next (raised .cmdBusy (encode i) s)

/-! ### NOP and the Sample Packer -/

/-- R210, R215: NOP's EXEC step completes and touches nothing else. -/
def Obligations.NopOnlyCompletes : Prop :=
  ∀ s : State, s.commandStep = .sequencer → s.seqState = .exec →
    exec .nop s = .next { s with inputs := s.inputs.tail, seqState := .idle, irqStatus := s.irqStatus ||| 0b0001#4 }

/-- R18: the byte-order helpers, and (the spec's own inference there) that they are inverse to each other. -/
def Obligations.ByteOrderHelpersAreInverse : Prop :=
  (∀ b0 b1 : Byte, (pack2 .little b0 b1).toNat = b0.toNat + 256 * b1.toNat ∧
      (pack2 .big b0 b1).toNat = b1.toNat + 256 * b0.toNat) ∧
  (∀ w : Half, unpack2 .little w = (w.extractLsb' 0 8, w.extractLsb' 8 8) ∧
      unpack2 .big w = (w.extractLsb' 8 8, w.extractLsb' 0 8)) ∧
  (∀ (bo : ByteOrder) (w : Half), pack2 bo (unpack2 bo w).1 (unpack2 bo w).2 = w) ∧
  ∀ (bo : ByteOrder) (b0 b1 : Byte), unpack2 bo (pack2 bo b0 b1) = (b0, b1)

/-- R230, R231: the lengths and every element of `pack` and `unpack`, in both byte orders; the pad is the constant
0x00 at index `n`. -/
def Obligations.PackAndUnpackElements : Prop :=
  ∀ bo : ByteOrder,
    (∀ b : List Byte, (pack bo b).length = (b.length + 1) / 2 ∧
      ∀ k < (b.length + 1) / 2, (pack bo b)[k]? = some (pack2 bo (b.getD (2 * k) 0) (b.getD (2 * k + 1) 0))) ∧
    ∀ w : List Half, (unpack bo w).length = 2 * w.length ∧
      ∀ k < w.length, (unpack bo w)[2 * k]? = some (unpack2 bo (w.getD k 0)).1 ∧
        (unpack bo w)[2 * k + 1]? = some (unpack2 bo (w.getD k 0)).2

/-- R233, the spec's own inference from R18, R230 and R231: the round trip of any byte sequence, and the single zero
pad byte after an odd one. -/
def Obligations.UnpackOfPackRoundTrip : Prop :=
  ∀ (bo : ByteOrder) (b : List Byte),
    (unpack bo (pack bo b)).take b.length = b ∧
      (b.length % 2 = 1 → (unpack bo (pack bo b))[b.length]? = some 0x00#8)

/-- R236: PACK's EXEC step writes `ceil(L/2)` samples from the scratch bytes it reads, an odd length padded, sets
PACKED_N and completes; no other byte of memory and no other register changes. -/
def Obligations.PackWritesPaddedSamples : Prop :=
  ∀ (l : Nat) (s : State), s.commandStep = .sequencer → s.seqState = .exec →
    ∃ t, exec (.pack l) s = .next t ∧
      t = { s with
        mem := t.mem
        packedN := BitVec.ofNat 32 ((l + 1) / 2)
        seqState := .idle
        irqStatus := s.irqStatus ||| 0b0001#4
        inputs := s.inputs.tail
        draws := s.draws + 1 } ∧
      (∀ k < (l + 1) / 2, t.sampleAt k =
        pack2 s.byteOrder (s.scratchAt (2 * k)) (if 2 * k + 1 < l then s.scratchAt (2 * k + 1) else 0x00#8)) ∧
      ∀ a, (a < 0x00020000 ∨ 0x00020000 + 2 * ((l + 1) / 2) ≤ a) → Memory.lookup t.mem a = Memory.lookup s.mem a

/-- R240: UNPACK's EXEC step writes the byte pair of each of the K samples to scratch and completes; PACKED_N, every
other register and every other byte of memory keep their values. -/
def Obligations.UnpackWritesBytePairs : Prop :=
  ∀ (k : Nat) (s : State), s.commandStep = .sequencer → s.seqState = .exec →
    ∃ t, exec (.unpack k) s = .next t ∧
      t = { s with
        mem := t.mem
        seqState := .idle
        irqStatus := s.irqStatus ||| 0b0001#4
        inputs := s.inputs.tail
        draws := s.draws + 1 } ∧
      (∀ j < k, (t.scratchAt (2 * j), t.scratchAt (2 * j + 1)) = unpack2 s.byteOrder (s.sampleAt j)) ∧
      ∀ a, (a < 0x00010000 ∨ 0x00010000 + 2 * k ≤ a) → Memory.lookup t.mem a = Memory.lookup s.mem a

/-- R242, the spec's own inference from R233, R236 and R240: UNPACK of PACKED_N samples after PACK of L bytes restores
the L scratch bytes PACK read, sets the byte after an odd L to 0x00, and changes no other scratch byte. -/
def Obligations.UnpackAfterPackRestoresScratch : Prop :=
  ∀ (l : Nat) (s : State), s.commandStep = .sequencer → s.seqState = .exec → l ≤ 65536 →
    ∃ t u, exec (.pack l) s = .next t ∧
      exec (.unpack t.packedN.toNat) { t with seqState := .exec, inputs := [] } = .next u ∧
      (∀ i < l, u.scratchAt i = s.scratchAt i) ∧ (l % 2 = 1 → u.scratchAt l = 0x00#8) ∧
      ∀ i, l + l % 2 ≤ i → i < 65536 → Memory.lookup u.mem (0x00010000 + i) = Memory.lookup s.mem (0x00010000 + i)

/-! ### The Chunked Streamer: SEND -/

/-- R265: the SEND_ISSUE step. At the end of the payload it completes and does nothing else. Before it, the chunk is
copied to scratch, an odd one padded, packed into samples, and requested of the transport; nothing else changes. An
odd chunk is the last and shorter than CAPACITY, and the words sent are the packed payload bytes (the spec's own
inferences there). -/
def Obligations.SendIssuePreparesChunkOrCompletes : Prop :=
  ∀ (s : State), s.commandStep = .sequencer → s.seqState = .sendIssue →
    (s.pos = s.payloadLen →
      exec .send s = .next { s with
        inputs := s.inputs.tail
        seqState := .idle
        irqStatus := s.irqStatus ||| 0b0001#4 }) ∧
    ∀ (cs : Nat) (words : List Half),
      s.params.Legal → s.capOk → s.payloadLen.toNat ≤ s.params.payloadBytes → s.pos.toNat < s.payloadLen.toNat →
      cs = min (s.payloadLen.toNat - s.pos.toNat) s.capacity.toNat →
      words = pack s.byteOrder ((List.range cs).map fun i => s.payloadAt (s.pos.toNat + i)) →
      ∃ t, exec .send s = .next t ∧
        t = { s with
          mem := t.mem
          packedN := BitVec.ofNat 32 ((cs + 1) / 2)
          curCs := BitVec.ofNat 32 cs
          treq := .transmit words
          seqState := .txWait
          inputs := s.inputs.tail
          draws := s.draws + 1 } ∧
        1 ≤ cs ∧ cs ≤ s.capacity.toNat ∧
        (cs % 2 = 1 → s.pos.toNat + cs = s.payloadLen.toNat ∧ cs < s.capacity.toNat) ∧
        (∀ i < cs, t.scratchAt i = s.payloadAt (s.pos.toNat + i)) ∧ (cs % 2 = 1 → t.scratchAt cs = 0x00#8) ∧
        (∀ k < (cs + 1) / 2, some (t.sampleAt k) = words[k]?) ∧
        ∀ a, (a < 0x00010000 ∨ 0x00010000 + cs + cs % 2 ≤ a) → (a < 0x00020000 ∨ 0x00020000 + cs + cs % 2 ≤ a) →
          Memory.lookup t.mem a = Memory.lookup s.mem a

/-- R266, R267, R268: the answer to a transmit. TxOk counts the chunk's bytes and reports TX_OK; TxErr counts a
failure, sets TXF and reports TX_ERR with 0 bytes, and BYTES_SENT does not advance. The cursor and the chunk index
advance on both, and the sequencer goes back to SEND_ISSUE. -/
def Obligations.TransmitAnswersAdvanceTheCursor : Prop :=
  ∀ (s : State) (words : List Half), s.treq = .transmit words →
    (s.commandStep = .answer .txOk →
      exec .send s = .next { s with
        inputs := s.inputs.tail
        bytesSent := s.bytesSent + s.curCs
        reports := s.reports ++ [.chunk .txOk s.chunkIndex s.curCs]
        lastOutcome := .outcome .txOk
        lastIndex := s.chunkIndex
        lastBytes := s.curCs
        pos := s.pos + s.curCs
        chunkIndex := s.chunkIndex + 1
        treq := .none
        seqState := .sendIssue }) ∧
    (s.commandStep = .answer .txErr →
      exec .send s = .next { s with
        inputs := s.inputs.tail
        txFails := s.txFails + 1
        irqStatus := s.irqStatus ||| 0b0100#4
        reports := s.reports ++ [.chunk .txErr s.chunkIndex 0]
        lastOutcome := .outcome .txErr
        lastIndex := s.chunkIndex
        lastBytes := 0
        pos := s.pos + s.curCs
        chunkIndex := s.chunkIndex + 1
        treq := .none
        seqState := .sendIssue })

/-- R269, the spec's own inference from R264 to R268, with R281, its own inference too (one report per chunk, in
order): a whole SEND cycle. Whatever the `q = ceil(n / C)` answers are,
issue, `q` chunks and the completing step bring the block back to IDLE with POS = n, CHUNK_INDEX = q, TX_FAILS the
number of failures, BYTES_SENT the sizes of the successful chunks (so that BYTES_SENT and the sizes of the failed ones
make n, and it is n when none failed and 0 when all did), one report per chunk in order, and TXF set only if a chunk
failed. Chunks before the last have size C, the last has the rest. -/
def Obligations.SendCycleMakesCeilManyCalls : Prop :=
  ∀ (s : State) (oks : List Bool) (rest : List Input) (n c : Nat),
    n = s.payloadLen.toNat → c = s.capacity.toNat → s.params.Legal → s.seqState = .idle → s.treq = .none → s.capOk →
    n ≤ s.params.payloadBytes → oks.length = (n + c - 1) / c →
    s.inputs = cmdWrite (encode .send) :: sendTurns oks rest →
    ∃ t, runSteps (2 + 2 * oks.length) s = .next t ∧ t.seqState = .idle ∧ t.inputs = rest ∧ t.treq = .none ∧
      t.pos = s.payloadLen ∧ t.chunkIndex.toNat = oks.length ∧ t.txFails.toNat = oks.count false ∧
      t.bytesSent.toNat = selectedBytes n c 0 oks ∧
      t.bytesSent.toNat + selectedBytes n c 0 (oks.map not) = n ∧
      t.reports = s.reports ++ sendReports n c 0 oks ∧
      t.irqStatus = s.irqStatus ||| 0b0001#4 ||| (if oks.all id then 0b0000#4 else 0b0100#4) ∧
      (false ∉ oks → t.bytesSent.toNat = n) ∧ (true ∉ oks → t.bytesSent = 0 ∧ t.txFails.toNat = oks.length) ∧
      (∀ k, k + 1 < oks.length → chunkSizeAt n c k = c) ∧
      (∀ k, k + 1 = oks.length → chunkSizeAt n c k = n - k * c ∧ 1 ≤ n - k * c ∧ n - k * c ≤ c)

/-! ### The Chunked Streamer: RECV and RECV_ANALYZE -/

/-- R272: the RX_ISSUE step of RECV and RECV_ANALYZE only requests BLOCK_BYTES bytes. -/
def Obligations.ReceiveIsRequestedOnce : Prop :=
  ∀ (i : Instr) (s : State), i = .recv ∨ i = .recvAnalyze → s.commandStep = .sequencer → s.seqState = .rxIssue →
    exec i s = .next { s with inputs := s.inputs.tail, treq := .receive s.blockBytes.toNat, seqState := .rxWait }

/-- R273: a successful receive of `m <= n` bytes writes them to scratch, reports and counts; RECV completes,
RECV_ANALYZE goes on to RX_ANALYZE; bytes beyond `m` (R275) and everything else are unchanged. -/
def Obligations.ReceivedBytesReachScratch : Prop :=
  ∀ (i : Instr) (s : State) (n : Nat) (d : List Byte), i = .recv ∨ i = .recvAnalyze →
    s.commandStep = .answer (.rxOk d) → s.treq = .receive n → d.length ≤ n →
    ∃ t, exec i s = .next t ∧
      t = { s with
        mem := t.mem
        inputs := s.inputs.tail
        rxCount := BitVec.ofNat 32 d.length
        reports := s.reports ++ [.chunk .rxOk s.rxSeq (BitVec.ofNat 32 d.length)]
        lastOutcome := .outcome .rxOk
        lastIndex := s.rxSeq
        lastBytes := BitVec.ofNat 32 d.length
        rxSeq := s.rxSeq + 1
        treq := .none
        seqState := if i = .recv then .idle else .rxAnalyze
        irqStatus := if i = .recv then s.irqStatus ||| 0b0001#4 else s.irqStatus } ∧
      (∀ j < d.length, some (t.scratchAt j) = d[j]?) ∧
      ∀ a, (a < 0x00010000 ∨ 0x00010000 + d.length ≤ a) → Memory.lookup t.mem a = Memory.lookup s.mem a

/-- R274, R278: a failed receive is counted and reported, sets RXF and DONE together and completes; scratch, the
statistics and STATS_VALID are unchanged, for RECV and RECV_ANALYZE alike. -/
def Obligations.FailedReceiveCompletesWithoutAnalysis : Prop :=
  ∀ (i : Instr) (s : State) (n : Nat), i = .recv ∨ i = .recvAnalyze → s.commandStep = .answer .rxErr →
    s.treq = .receive n →
    exec i s = .next { s with
      inputs := s.inputs.tail
      rxCount := 0
      irqStatus := s.irqStatus ||| 0b1000#4 ||| 0b0001#4
      reports := s.reports ++ [.chunk .rxErr s.rxSeq 0]
      lastOutcome := .outcome .rxErr
      lastIndex := s.rxSeq
      lastBytes := 0
      rxSeq := s.rxSeq + 1
      treq := .none
      seqState := .idle }

/-- R262: an answer of the other kind of request, or an RxOk of more bytes than were requested, is no answer: in a
sound busy state the request stays outstanding and nothing changes. -/
def Obligations.NonAnswersAreNoStep : Prop :=
  ∀ (s : State) (a : Answer), s.Inv → s.inputs.head? = some (.transport a) →
    (∀ words, s.treq = .transmit words → a ≠ .txOk ∧ a ≠ .txErr) →
    (∀ n, s.treq = .receive n → a ≠ .rxErr ∧ ∀ d, a = .rxOk d → n < d.length) →
    step s = .next s.pop

/-! ### The Signal Analyzer -/

/-- R311, R313, R316, R317, with the activity and the sum of R314 and R315: ANALYZE's EXEC step commits the exact
statistics of the `L / 2` samples it reads from scratch, reports them and completes; it writes no memory and nothing
else. -/
def Obligations.AnalyzeCommitsTheStatistics : Prop :=
  ∀ (l : Nat) (s : State) (xs : List Int), s.commandStep = .sequencer → s.seqState = .exec → l ≤ 65536 →
    xs = (List.range (l / 2)).map
      (fun k => (pack2 s.byteOrder (s.scratchAt (2 * k)) (s.scratchAt (2 * k + 1))).toInt) →
    ∃ t, exec (.analyze l) s = .next t ∧
      t = { s with
        inputs := s.inputs.tail
        stats := t.stats
        statsValid := true
        reports := s.reports ++ [.stats t.stats]
        seqState := .idle
        irqStatus := s.irqStatus ||| 0b0001#4
        draws := s.draws + 1 } ∧
      t.stats.sampleCount.toNat = l / 2 ∧
      t.stats.activeCount.toNat = (xs.filter fun x => decide (s.noiseThr.toNat < x.natAbs)).length ∧
      t.stats.sumAbs.toNat = (xs.map Int.natAbs).sum ∧
      (∀ x ∈ xs, x.natAbs ≤ 32768 ∧ x.natAbs ≤ t.stats.maxAbs.toNat ∧ t.stats.minRaw.toInt ≤ x) ∧
      (xs ≠ [] → (∃ x ∈ xs, x.natAbs = t.stats.maxAbs.toNat) ∧ ∃ x ∈ xs, x = t.stats.minRaw.toInt) ∧
      (xs ≠ [] → t.stats.avgAbs.toNat = (xs.map Int.natAbs).sum / (l / 2)) ∧
      (xs = [] → t.stats.maxAbs = 0 ∧ t.stats.minRaw.toInt = 32767 ∧ t.stats.avgAbs = 0)

/-- R318, and R321 in the commit: the class ANALYZE commits, by the order of the tests on the average and the activity
it commits, and the ratio of the counts it commits. -/
def Obligations.CommittedClassAndRatio : Prop :=
  ∀ (l : Nat) (s : State), s.commandStep = .sequencer → s.seqState = .exec → l ≤ 65536 →
    ∃ t, exec (.analyze l) s = .next t ∧
      t.stats.strength =
        (if s.strongBp.toNat < t.stats.avgAbs.toNat then .strong
        else if s.moderateBp.toNat < t.stats.avgAbs.toNat then .moderate
        else if s.activeBp.toNat < t.stats.activeCount.toNat then .weak
        else .none) ∧
      t.stats.activeRatio = ratioBits t.stats.activeCount.toNat t.stats.sampleCount.toNat

/-- R321, over the binary32 format of the spec's general knowledge (log 14): the ratio is the pattern nearest the
exact rational: no finite pattern of sign 0 is nearer, and another one as near leaves it the even fraction; it lies in
[2^-15, 1.0], is 1.0 when every sample is active, and +0.0 when none is or there is no sample. -/
def Obligations.RatioIsTheNearestBinary32 : Prop :=
  (∀ a k : Nat, 0 < a → a ≤ k → k ≤ 32768 →
    (ratioBits a k).toNat < 0x7F800000 ∧ 1 / 2 ^ 15 ≤ binary32Value (ratioBits a k) ∧ binary32Value (ratioBits a k) ≤ 1 ∧
    ∀ w : Word, w.toNat < 0x7F800000 →
      |binary32Value (ratioBits a k) - (a : ℚ) / k| ≤ |binary32Value w - (a : ℚ) / k| ∧
      (|binary32Value (ratioBits a k) - (a : ℚ) / k| = |binary32Value w - (a : ℚ) / k| → w ≠ ratioBits a k →
        (ratioBits a k).toNat % 2 = 0)) ∧
  (∀ k : Nat, 0 < k → k ≤ 32768 → ratioBits k k = 0x3F800000) ∧
  (∀ k : Nat, ratioBits 0 k = 0x00000000) ∧ ∀ a : Nat, ratioBits a 0 = 0x00000000

/-- R277: the RX_ANALYZE step of RECV_ANALYZE is the analysis of ANALYZE with L = BLOCK_BYTES, and completes. -/
def Obligations.RxAnalyzeAnalysesTheBlock : Prop :=
  ∀ s : State, s.commandStep = .sequencer → s.seqState = .rxAnalyze →
    ∃ t, exec .recvAnalyze s = .next t ∧ exec (.analyze s.blockBytes.toNat) { s with seqState := .exec } = .next t ∧
      t.seqState = .idle ∧ t.statsValid = true ∧ t.mem = s.mem

/-- R319: the analysis of an empty block, L = 0 or L = 1, whatever the configuration and scratch hold. -/
def Obligations.EmptyBlockStatistics : Prop :=
  ∀ (l : Nat) (s : State), s.commandStep = .sequencer → s.seqState = .exec → l ≤ 1 →
    ∃ t, exec (.analyze l) s = .next t ∧ t.stats.sampleCount = 0 ∧ t.stats.activeCount = 0 ∧ t.stats.sumAbs = 0 ∧
      t.stats.maxAbs = 0 ∧ t.stats.minRaw = 0x00007FFF#32 ∧ t.stats.avgAbs = 0 ∧ t.stats.activeRatio = 0 ∧
      t.stats.strength = .none

/-- R324, the spec's own inference from R313 to R318: the classification boundaries for blocks of K equal samples, at
the reset breakpoints. -/
def Obligations.ClassificationBoundaries : Prop :=
  ∀ (bo : ByteOrder) (noise kcount : Nat) (v : Int) (bytes : List Byte), 0 < kcount → kcount ≤ 32768 →
    samplesOf bo bytes = List.replicate kcount v →
    (v.natAbs = 1001 → (statsOf bo noise 1000 100 10 bytes).strength = .strong) ∧
    (v.natAbs = 1000 ∨ v.natAbs = 101 → (statsOf bo noise 1000 100 10 bytes).strength = .moderate) ∧
    (v.natAbs = 100 → noise < 100 →
      (statsOf bo noise 1000 100 10 bytes).strength = if 10 < kcount then .weak else .none) ∧
    (v.natAbs = 100 → 100 ≤ noise → (statsOf bo noise 1000 100 10 bytes).strength = .none) ∧
    (v = 0 → (statsOf bo noise 1000 100 10 bytes).strength = .none)

/-- R325, the spec's own inference from R313 and R315 to R320: -32768 has absolute value 32768: it is the maximum of a
block that contains it, and a block of K of them has the sum 32768 * K, the average 32768 and the minimum 0xFFFF_8000.
-/
def Obligations.MostNegativeSampleDoesNotOverflow : Prop :=
  ∀ (bo : ByteOrder) (noise sb mb ab : Nat) (bytes : List Byte), (samplesOf bo bytes).length ≤ 32768 →
    (-32768 ∈ samplesOf bo bytes → (statsOf bo noise sb mb ab bytes).maxAbs = 32768#32) ∧
    ∀ k, 0 < k → samplesOf bo bytes = List.replicate k (-32768) →
      (statsOf bo noise sb mb ab bytes).sumAbs = BitVec.ofNat 32 (32768 * k) ∧
      (statsOf bo noise sb mb ab bytes).avgAbs = 32768#32 ∧
      (statsOf bo noise sb mb ab bytes).minRaw = 0xFFFF8000#32 ∧
      (sb < 32768 → (statsOf bo noise sb mb ab bytes).strength = .strong)

/-- R326, the spec's own inference from R311 to R321: two blocks that agree on the L scratch bytes read, on
CFG.BYTE_ORDER, NOISE_THR and the three breakpoints commit the same statistics, whatever else differs. -/
def Obligations.AnalysisReadsOnlyItsOperands : Prop :=
  ∀ (l : Nat) (s t : State), s.commandStep = .sequencer → t.commandStep = .sequencer → s.seqState = .exec →
    t.seqState = .exec → (∀ i < l, s.scratchAt i = t.scratchAt i) → s.byteOrder = t.byteOrder →
    s.noiseThr = t.noiseThr → s.strongBp = t.strongBp → s.moderateBp = t.moderateBp → s.activeBp = t.activeBp →
    ∃ s' t', exec (.analyze l) s = .next s' ∧ exec (.analyze l) t = .next t' ∧ s'.stats = t'.stats

/-- R170, R171, R172: the eight words of every report frame. -/
def Obligations.ReportFrameLayout : Prop :=
  (∀ (k : ChunkKind) (i b : Word), (Report.chunk k i b).frame =
    [match k with | .txOk => 1 | .txErr => 2 | .rxOk => 3 | .rxErr => 4, i, b, 0, 0, 0, 0, 0]) ∧
  (∀ a : AudioStats, ∃ w0 : Word, (Report.stats a).frame =
      [w0, a.sampleCount, a.activeCount, a.sumAbs, a.maxAbs, a.minRaw, a.avgAbs, a.activeRatio] ∧
    w0.extractLsb' 0 4 = 5#4 ∧
    w0.extractLsb' 4 2 = (match a.strength with | .none => 0 | .weak => 1 | .moderate => 2 | .strong => 3) ∧
    w0.extractLsb' 6 26 = 0#26)

/-! ### Errors and the interrupt line -/

/-- R407, R46: a write of IRQ_STATUS clears the bits written 1, whatever BUSY is; bit 1 clears ERR_CODE, ERR_OVF and
ERR_CMD in the same step, and without it they stay. The response .ack is the model's field (log 8). -/
def Obligations.AcknowledgeClearsTheError : Prop :=
  ∀ (s : State) (v : Word), s.inputs.head? = some (.host (.write .word 0x00000018 v)) →
    step s = .next { s with
      inputs := s.inputs.tail
      hostResp := .ack
      irqStatus := s.irqStatus &&& ~~~(v.extractLsb' 0 4)
      errCode := if v.getLsbD 1 then .noError else s.errCode
      errOvf := if v.getLsbD 1 then false else s.errOvf
      errCmd := if v.getLsbD 1 then 0 else s.errCmd }

/-- R83, R410: the interrupt line is high exactly when some pending bit is enabled, and low after power-on reset;
IRQ_ENABLE (R47) takes bits 3..0 of what is written whatever BUSY is, and the response .ack is the model's field
(log 8). -/
def Obligations.InterruptLineAndEnable : Prop :=
  (∀ s : State, s.irq = true ↔ ∃ j < 4, s.irqStatus.getLsbD j = true ∧ s.irqEnable.getLsbD j = true) ∧
  (∀ p : Params, (State.powerOn p).irq = false) ∧
  ∀ (s : State) (v : Word), s.inputs.head? = some (.host (.write .word 0x0000001C v)) →
    step s = .next { s with inputs := s.inputs.tail, hostResp := .ack, irqEnable := v.extractLsb' 0 4 }

/-- R212: while BUSY, a write to a configuration register, to a populated window address, or to CTRL with bit 0 set is
dropped and raises WRITE_BUSY with the bus address. That the dropped write is acknowledged on the bus (hostResp is
.ack, in `raised`) is the model's choice (log 8, DEDUCED and unsafe), not the spec's. -/
def Obligations.WritesWhileBusyAreDropped : Prop :=
  ∀ (s : State) (size : Size) (a v : Word), s.inputs.head? = some (.host (.write size a v)) → s.seqState ≠ .idle →
    ((size = .word ∧ a.toNat ∈ [0x020, 0x024, 0x028, 0x02C, 0x030, 0x034, 0x038, 0x03C, 0x040]) ∨
      (a.toNat % size.bytes = 0 ∧ ∀ j < size.bytes, PopulatedByte s.params (a.toNat + j)) ∨
      (size = .word ∧ a = 0x00000004 ∧ v.getLsbD 0 = true)) →
    step s = .next (raised .writeBusy a s)

/-- R209: no host access changes SEQ_STATE, CUR_OP, CUR_ARG, CUR_CS or TREQ while the block is busy; power-on reset
apart, a running command ends only by a step of its own that sets DONE. -/
def Obligations.RunningCommandCannotBeCancelled : Prop :=
  ∀ s t : State, s.seqState ≠ .idle → step s = .next t →
    (∀ a, s.inputs.head? = some (.host a) →
      t.seqState = s.seqState ∧ t.curOp = s.curOp ∧ t.curArg = s.curArg ∧ t.curCs = s.curCs ∧ t.treq = s.treq) ∧
    (t.seqState = .idle →
      s.inputs.head? = some .powerOnReset ∨ (s.blockTurn = true ∧ t.irqStatus.getLsbD 0 = true))

/-- In every step the error registers stay consistent with IRQ_STATUS.ERR (R44, R45, R46, R402, R407). -/
def Obligations.StepKeepsErrorsConsistent : Prop :=
  ∀ s t : State, s.ErrorOk → step s = .next t → t.ErrorOk

/-! ### The host bus -/

/-- R112, R101, R110, R111, R75: every access outside the populated map, of a wrong width or misaligned is answered
with a bus error and changes nothing, not even ERR or IRQ_STATUS; every other one is not answered so. -/
def Obligations.BusErrorsChangeNothing : Prop :=
  ∀ (s : State) (a : HostAccess), s.params.Legal → s.inputs.head? = some (.host a) →
    (¬ GoodAccess s.params a.place.1 a.place.2 →
      step s = .next { s with inputs := s.inputs.tail, hostResp := .busError }) ∧
    (GoodAccess s.params a.place.1 a.place.2 → ∃ t, step s = .next t ∧ t.hostResp ≠ .busError)

/-- R114, R110, R213: a host read changes no state of the block, whatever BUSY is: only the response and the model's own
draw counter. A word read of a control register answers that register's current value, `readReg`, whose content
RegisterReadsAnswerTheRegisters and StatusAndErrFields give, and uses no draw. The response field is log 8's. -/
def Obligations.HostReadsChangeNothing : Prop :=
  (∀ (s : State) (size : Size) (a : Word), s.inputs.head? = some (.host (.read size a)) →
    ∃ t, step s = .next t ∧ t = { s with inputs := s.inputs.tail, hostResp := t.hostResp, draws := t.draws } ∧
      t.hostResp ≠ .none) ∧
  ∀ (s : State) (r : Reg), s.inputs.head? = some (.host (.read .word (BitVec.ofNat 32 r.offset))) →
    step s = .next { s with inputs := s.inputs.tail, hostResp := .value (readReg s r) }

/-- R106 for reads, R102, R103, R105: a window read returns its bytes with the lowest address least significant, and
the elements of the three memories stand on the bus where the byte maps say. -/
def Obligations.WindowReadsAndByteMaps : Prop :=
  (∀ (s : State) (i : Nat),
    s.scratchAt i = Memory.read s.draws s.mem (0x00010000 + i) ∧
    s.payloadAt i = Memory.read s.draws s.mem (0x01000000 + i) ∧
    (s.sampleAt i).extractLsb' 0 8 = Memory.read s.draws s.mem (0x00020000 + 2 * i) ∧
    (s.sampleAt i).extractLsb' 8 8 = Memory.read s.draws s.mem (0x00020000 + 2 * i + 1)) ∧
  ∀ (s : State) (size : Size) (a : Word), s.params.Legal → s.inputs.head? = some (.host (.read size a)) →
    a.toNat % size.bytes = 0 → (∀ j < size.bytes, PopulatedByte s.params (a.toNat + j)) →
    ∃ t v, step s = .next t ∧ t.hostResp = .value v ∧
      v.toNat = ((List.range size.bytes).map fun j => (Memory.read s.draws s.mem (a.toNat + j)).toNat * 256 ^ j).sum

/-- R106, R104 for writes: a window write at an idle block sets byte `a + j` to bits `8j+7 .. 8j` of the value for
each of its bytes, and changes no other byte and no register. The response .ack is the model's field (log 8). -/
def Obligations.WindowWritesAreLittleEndian : Prop :=
  ∀ (s : State) (size : Size) (a v : Word), s.params.Legal → s.inputs.head? = some (.host (.write size a v)) →
    s.seqState = .idle → a.toNat % size.bytes = 0 → (∀ j < size.bytes, PopulatedByte s.params (a.toNat + j)) →
    ∃ t, step s = .next t ∧ t = { s with mem := t.mem, inputs := s.inputs.tail, hostResp := .ack } ∧
      (∀ j < size.bytes, Memory.lookup t.mem (a.toNat + j) = some (v.extractLsb' (8 * j) 8)) ∧
      ∀ b, (b < a.toNat ∨ a.toNat + size.bytes ≤ b) → Memory.lookup t.mem b = Memory.lookup s.mem b

/-- R42, R44: the fields of STATUS and ERR as the host reads them: `readReg` is what a host read of the register answers
(HostReadsChangeNothing). -/
def Obligations.StatusAndErrFields : Prop :=
  ∀ s : State,
    ((readReg s .status).getLsbD 0 = true ↔ s.seqState ≠ .idle) ∧
    (readReg s .status).extractLsb' 1 3 =
      (match s.seqState with
        | .idle => 0 | .exec => 1 | .sendIssue => 2 | .txWait => 3 | .rxIssue => 4 | .rxWait => 5 | .rxAnalyze => 6) ∧
    (readReg s .status).getLsbD 4 = s.statsValid ∧ (readReg s .status).toNat < 32 ∧
    (readReg s .err).extractLsb' 0 8 =
      (match s.errCode with
        | .noError => 0 | .illegalCmd => 1 | .cmdBusy => 2 | .badConfig => 3 | .badArg => 4 | .writeBusy => 5) ∧
    (readReg s .err).getLsbD 8 = s.errOvf ∧ (readReg s .err).toNat < 512

/-- R48 to R54 and the head of 10_state.md section 3: a write to a configuration register at an idle block stores all
32 bits (CFG its bit 0), without a legality check, and no other register, memory or hidden state changes. The response
.ack is the model's field (log 8). -/
def Obligations.ConfigWritesAreStored : Prop :=
  ∀ (r : Reg) (s : State) (v : Word), r.isConfig = true →
    s.inputs.head? = some (.host (.write .word (BitVec.ofNat 32 r.offset) v)) → s.seqState = .idle →
    ∃ t, step s = .next t ∧ readReg t r = (if r = .cfg then v &&& 1#32 else v) ∧
      (∀ q, q ≠ r → readReg t q = readReg s q) ∧ t.mem = s.mem ∧ t.reports = s.reports ∧ t.treq = s.treq ∧
      t.curOp = s.curOp ∧ t.curArg = s.curArg ∧ t.curCs = s.curCs ∧ t.params = s.params ∧ t.hostResp = .ack

/-- R114: a write to a read-only register is ignored without an error, whatever BUSY is, and so is a write of CTRL
with bit 0 clear (R41). The response .ack is the model's field (log 8). -/
def Obligations.ReadOnlyWritesAreIgnored : Prop :=
  ∀ (r : Reg) (s : State) (v : Word), r.isReadOnly = true ∨ (r = .ctrl ∧ v.getLsbD 0 = false) →
    s.inputs.head? = some (.host (.write .word (BitVec.ofNat 32 r.offset) v)) →
    step s = .next { s with inputs := s.inputs.tail, hostResp := .ack }

/-! ### Reset -/

/-- R450, R451: power-on reset, at any moment, sets every control register to the value of R451's table, abandons the
transport request, empties the report log and leaves every memory element unwritten. -/
def Obligations.PowerOnResetValues : Prop :=
  ∀ s : State, s.inputs.head? = some .powerOnReset →
    ∃ t, step s = .next t ∧ t.treq = .none ∧ t.reports = [] ∧ t.irq = false ∧ (∀ a, Memory.lookup t.mem a = none) ∧
      readReg t .id = 0x41535031 ∧ (∀ r ∈ [.capacity, .blockBytes, .paramScratch],
        readReg t r = BitVec.ofNat 32 s.params.scratchBytes) ∧
      readReg t .paramPayload = BitVec.ofNat 32 s.params.payloadBytes ∧ readReg t .noiseThr = 10 ∧
      readReg t .moderateBp = 100 ∧ readReg t .strongBp = 1000 ∧ readReg t .activeBp = 10 ∧
      readReg t .sampleRate = s.params.sampleRateReset ∧ readReg t .stMin = 0x00007FFF ∧
      ∀ r, r ∉ [.id, .capacity, .blockBytes, .paramScratch, .paramPayload, .noiseThr, .moderateBp, .strongBp,
        .activeBp, .sampleRate, .stMin] → readReg t r = 0

/-- R452: soft reset, a write of CTRL with bit 0 set at an idle block: every register reads as after power-on reset;
the three memories and the report log keep their contents; the request is none. While BUSY the write is refused. That
the write is acknowledged on the bus (hostResp is .ack), and the refused one too (in `raised`), is the model's choice
(log 8; for the refused one DEDUCED and unsafe), not the spec's. -/
def Obligations.SoftResetKeepsMemories : Prop :=
  ∀ (s : State) (v : Word), s.inputs.head? = some (.host (.write .word 0x00000004 v)) → v.getLsbD 0 = true →
    (s.seqState = .idle →
      ∃ t, step s = .next t ∧ (∀ r, readReg t r = readReg (State.powerOn s.params) r) ∧ t.mem = s.mem ∧
        t.reports = s.reports ∧ t.treq = .none ∧ t.params = s.params ∧ t.inputs = s.inputs.tail ∧ t.hostResp = .ack) ∧
    (s.seqState ≠ .idle → step s = .next (raised .writeBusy 0x00000004 s))

/-- The state after power-on reset is sound for every legal choice of the parameters; so is `State.reset`, whose
parameters are the model's choice (log 2). -/
def Obligations.ResetIsSound : Prop :=
  (∀ p : Params, p.Legal → (State.powerOn p).Inv) ∧ State.reset.Inv

/-! ### Whole-machine rules -/

/-- Every step from a sound state gives a sound state: legal parameters, canonical memory with only populated bytes,
SEQ_STATE, the latched command and TREQ in agreement (R82, R203), the SEND cursor inside the payload (R268), the error
registers consistent, the statistics in their ranges (R65 to R70); and it leaves the parameters alone (R30). -/
def Obligations.StepKeepsTheInvariant : Prop :=
  ∀ s t : State, s.Inv → step s = .next t → t.Inv ∧ t.params = s.params

/-- From a sound state no step stops: every host access, answer and turn has a next state (R112, R207, R282, R400). -/
def Obligations.SoundStatesNeverStop : Prop :=
  ∀ s : State, s.Inv → ∃ t, step s = .next t

/-- Every step keeps the memory's canonical form, from any state whose memory has it (log 11). -/
def Obligations.StepKeepsMemoryCanonical : Prop :=
  ∀ s t : State, Memory.wf s.mem = true → step s = .next t → Memory.wf t.mem = true

/-- R84: the block only appends to the report log, at most one frame a step; power-on reset alone empties it. -/
def Obligations.ReportLogOnlyGrows : Prop :=
  ∀ s t : State, step s = .next t →
    (s.inputs.head? ≠ some .powerOnReset →
      ∃ fs : List Report, fs.length ≤ 1 ∧ t.reports = s.reports ++ fs) ∧
    (s.inputs.head? = some .powerOnReset → t.reports = [])

/-- R120 (1): BUSY becomes 1 only in the step of a CMD write that raises no error, and such a write makes it 1 in the
same step. -/
def Obligations.BusyFollowsTheIssue : Prop :=
  ∀ (s t : State), step s = .next t → s.seqState = .idle →
    (t.seqState ≠ .idle → ∃ c, s.inputs.head? = some (cmdWrite c) ∧ issueCheck c s = .noError) ∧
    ∀ c, s.inputs.head? = some (cmdWrite c) → issueCheck c s = .noError → t.seqState ≠ .idle

/-- R38, R461 (the spec's own inference from R212): in a busy sound block no step but power-on reset changes a byte of
the payload memory: the block only reads it, and host writes to it are dropped. -/
def Obligations.PayloadIsStableWhileBusy : Prop :=
  ∀ s t : State, s.Inv → s.seqState ≠ .idle → s.inputs.head? ≠ some .powerOnReset → step s = .next t →
    ∀ a, 0x01000000 ≤ a → Memory.lookup t.mem a = Memory.lookup s.mem a

/-- R213, R320: the statistics registers hold the previous analysis until a commit: only the EXEC step of ANALYZE, the
RX_ANALYZE step, and a reset change them or STATS_VALID. -/
def Obligations.OnlyAnalysesAndResetsChangeStatistics : Prop :=
  ∀ s t : State, step s = .next t → (t.stats ≠ s.stats ∨ t.statsValid ≠ s.statsValid) →
    (s.blockTurn = true ∧ s.seqState = .exec ∧ ∃ l, decode (s.curArg ++ s.curOp) = .command (.analyze l)) ∨
    (s.blockTurn = true ∧ s.seqState = .rxAnalyze) ∨
    s.inputs.head? = some .powerOnReset ∨
    (s.seqState = .idle ∧ ∃ v, s.inputs.head? = some (.host (.write .word 0x00000004 v)) ∧ v.getLsbD 0 = true)

/-- R80, R81: the latches are never read while IDLE: two idle blocks that differ only in them take the same step, up
to the latches. -/
def Obligations.IdleStepsIgnoreTheLatches : Prop :=
  ∀ (s t : State) (op : BitVec 8) (arg : BitVec 24) (cs : Word), s.seqState = .idle → step s = .next t →
    ∃ u, step { s with curOp := op, curArg := arg, curCs := cs } = .next u ∧
      { u with curOp := 0, curArg := 0, curCs := 0 } = { t with curOp := 0, curArg := 0, curCs := 0 } ∧
      (t.seqState ≠ .idle → u.curOp = t.curOp ∧ u.curArg = t.curArg)

/-! ### The registers as the host reads them -/

/-- R40 to R74, with the offsets of 10_state.md section 3: what a host read of each control register answers, busy or
not (R213), field by field, as `registerValues` lists them; STATUS and ERR are in StatusAndErrFields. The response field
is log 8's. -/
def Obligations.RegisterReadsAnswerTheRegisters : Prop :=
  ∀ (s : State) (off : Nat) (v : Word), s.inputs.head? = some (.host (.read .word (BitVec.ofNat 32 off))) →
    (off, v) ∈ registerValues s → step s = .next { s with inputs := s.inputs.tail, hostResp := .value v }
end

