-- ==== Sys2Proof/Laws/Memory.lean ====
section
/-! SUPPORT. The laws of the byte memory: a read after a write, the frame of a write, and the canonical form. -/

namespace Sys2Proof.Machine

/-- A read after a write: the written byte at its address, every other address as before. -/
theorem lookup_write (m : List Host.Cell) (a b : Nat) (v : Byte) :
    Memory.lookup (Memory.write m a v) b = if b = a then some v else Memory.lookup m b := by
  induction m with
  | nil =>
    by_cases h : b = a
    · simp [Memory.write, Memory.lookup, h]
    · simp [Memory.write, Memory.lookup, h, Ne.symm h]
  | cons x r ih =>
    by_cases h : b = a
    · subst h
      simp only [Memory.write]
      split
      · simp [Memory.lookup]
      · split
        · simp [Memory.lookup]
        · rw [Memory.lookup, if_neg (by omega), ih]; simp
    · simp only [Memory.write]
      split
      · rw [Memory.lookup, if_neg (Ne.symm h)]
      · split
        · simp only [Memory.lookup]
          rw [if_neg (Ne.symm h), if_neg (by omega)]
        · simp only [Memory.lookup, ih, if_neg h]

/-- A read after a write of consecutive bytes. -/
theorem lookup_writeList (bytes : List Byte) : ∀ (m : List Host.Cell) (a b : Nat),
    Memory.lookup (Memory.writeList m a bytes) b =
      if a ≤ b ∧ b < a + bytes.length then bytes[b - a]? else Memory.lookup m b := by
  induction bytes with
  | nil => intro m a b; rw [if_neg (by simp)]; rfl
  | cons v r ih =>
    intro m a b
    simp only [Memory.writeList, ih, lookup_write, List.length_cons]
    by_cases h : b = a
    · subst h; simp
    · by_cases h' : a + 1 ≤ b ∧ b < a + 1 + r.length
      · rw [if_pos h', if_pos (by omega)]
        obtain ⟨k, rfl⟩ : ∃ k, b = a + 1 + k := ⟨b - (a + 1), by omega⟩
        simp [show a + 1 + k - (a + 1) = k by omega, show a + 1 + k - a = k + 1 by omega]
      · rw [if_neg h', if_neg h, if_neg (by omega)]

/-- Outside the written bytes nothing changes. -/
theorem lookup_writeList_outside {bytes : List Byte} {m : List Host.Cell} {a b : Nat}
    (h : b < a ∨ a + bytes.length ≤ b) : Memory.lookup (Memory.writeList m a bytes) b = Memory.lookup m b := by
  rw [lookup_writeList, if_neg (by omega)]

/-- A written byte is read back, whatever the draw. -/
theorem read_writeList_inside {bytes : List Byte} {m : List Host.Cell} {n a j : Nat} (h : j < bytes.length) :
    Memory.read n (Memory.writeList m a bytes) (a + j) = bytes[j] := by
  simp [Memory.read, lookup_writeList, h]

/-- Outside the written bytes reads are as before. -/
theorem read_writeList_outside {bytes : List Byte} {m : List Host.Cell} {n a b : Nat}
    (h : b < a ∨ a + bytes.length ≤ b) : Memory.read n (Memory.writeList m a bytes) b = Memory.read n m b := by
  simp [Memory.read, lookup_writeList_outside h]

/-- The addresses of a write: those listed before, and the written one. -/
theorem mem_write {m : List Host.Cell} {a : Nat} {v : Byte} {x : Host.Cell} (h : x ∈ Memory.write m a v) :
    x ∈ m ∨ x.1 = a := by
  induction m with
  | nil => simp_all [Memory.write]
  | cons y r ih =>
    simp only [Memory.write] at h
    split at h
    · rcases List.mem_cons.1 h with rfl | h
      · exact .inr rfl
      · exact .inl h
    · split at h
      · simp only [List.mem_cons] at h ⊢; rcases h with rfl | h <;> simp_all
      · simp only [List.mem_cons] at h ⊢; rcases h with rfl | h
        · simp
        · rcases ih h with h | h <;> simp_all

/-- The addresses of a write of consecutive bytes. -/
theorem mem_writeList {bytes : List Byte} : ∀ {m : List Host.Cell} {a : Nat} {x : Host.Cell},
    x ∈ Memory.writeList m a bytes → x ∈ m ∨ (a ≤ x.1 ∧ x.1 < a + bytes.length) := by
  induction bytes with
  | nil => intro m a x h; exact .inl h
  | cons v r ih =>
    intro m a x h
    rcases ih h with h | h
    · rcases mem_write h with h | h
      · exact .inl h
      · exact .inr (by simp; omega)
    · exact .inr (by simp; omega)

/-- The canonical form is that the addresses strictly rise. -/
theorem wf_cons {x : Host.Cell} {r : List Host.Cell} :
    Memory.wf (x :: r) = true ↔ (∀ y ∈ r, x.1 < y.1) ∧ Memory.wf r = true := by
  induction r generalizing x with
  | nil => simp [Memory.wf]
  | cons y t ih =>
    simp only [Memory.wf, Bool.and_eq_true, decide_eq_true_eq, List.mem_cons, forall_eq_or_imp]
    constructor
    · rintro ⟨h, w⟩; exact ⟨⟨h, fun z hz => h.trans ((ih.1 w).1 z hz)⟩, w⟩
    · rintro ⟨⟨h, _⟩, w⟩; exact ⟨h, w⟩

/-- A write keeps the canonical form. -/
theorem wf_write {m : List Host.Cell} {a : Nat} {v : Byte} (h : Memory.wf m = true) :
    Memory.wf (Memory.write m a v) = true := by
  induction m with
  | nil => rfl
  | cons x r ih =>
    obtain ⟨hx, hr⟩ := wf_cons.1 h
    simp only [Memory.write]
    split
    · exact wf_cons.2 ⟨by rintro y hy; rcases List.mem_cons.1 hy with rfl | hy
                          · assumption
                          · exact lt_trans ‹_› (hx y hy), h⟩
    · split
      · exact wf_cons.2 ⟨by intro y hy; have := hx y hy; simp_all, hr⟩
      · refine wf_cons.2 ⟨fun y hy => ?_, ih hr⟩
        rcases mem_write hy with hy | hy
        · exact hx y hy
        · omega

/-- A write of consecutive bytes keeps the canonical form. -/
theorem wf_writeList {bytes : List Byte} : ∀ {m : List Host.Cell} {a : Nat}, Memory.wf m = true →
    Memory.wf (Memory.writeList m a bytes) = true := by
  induction bytes with
  | nil => intro m a h; exact h
  | cons v r ih => intro m a h; exact ih (wf_write h)

/-- `readList` reads `k` bytes. -/
@[simp] theorem length_readList (n : Nat) (m : List Host.Cell) : ∀ a k, (Memory.readList n m a k).length = k
  | _, 0 => rfl
  | a, k + 1 => by simp [Memory.readList, length_readList n m (a + 1) k]

/-- The `j`-th byte that `readList` reads. -/
@[simp] theorem getElem_readList (n : Nat) (m : List Host.Cell) : ∀ (a k j : Nat) (h : j < (Memory.readList n m a k).length),
    (Memory.readList n m a k)[j] = Memory.read n m (a + j)
  | a, k + 1, 0, _ => rfl
  | a, k + 1, j + 1, h => by
    simp only [Memory.readList, List.getElem_cons_succ]
    rw [getElem_readList n m (a + 1) k j]; congr 1; omega
  | _, 0, _, h => absurd h (by simp)

end Sys2Proof.Machine
end

