-- ==== Sys2Proof/Laws/Operands.lean ====
section
/-! SUPPORT. The byte-order helpers, `pack`, `unpack`, and the elements of the three memories after a write. -/

namespace Sys2Proof.Machine

@[simp] theorem lowByte_append (b1 b0 : Byte) : lowByte (b1 ++ b0 : BitVec (8 + 8)) = b0 :=
  BitVec.extractLsb'_append_eq_right

@[simp] theorem highByte_append (b1 b0 : Byte) : highByte (b1 ++ b0 : BitVec (8 + 8)) = b1 :=
  BitVec.extractLsb'_append_eq_left

/-- The word of a word's own bytes. -/
@[simp] theorem highByte_append_lowByte (w : Half) : (highByte w ++ lowByte w : BitVec (8 + 8)) = w :=
  BitVec.extractLsb'_append_extractLsb'_eq_extractLsb' (by rfl) |>.trans (by simp)

/-- `unpack2` undoes `pack2` (R18). -/
@[simp] theorem unpack2_pack2 (bo : ByteOrder) (b0 b1 : Byte) : unpack2 bo (pack2 bo b0 b1) = (b0, b1) := by
  cases bo <;> simp [unpack2, pack2]

/-- `pack2` undoes `unpack2` (R18). -/
@[simp] theorem pack2_unpack2 (bo : ByteOrder) (w : Half) : pack2 bo (unpack2 bo w).1 (unpack2 bo w).2 = w := by
  cases bo <;> simp [unpack2, pack2]

/-- A block of `n` bytes packs into `ceil(n / 2)` words (R230). -/
@[simp] theorem length_pack (bo : ByteOrder) : ∀ b : List Byte, (pack bo b).length = (b.length + 1) / 2
  | [] => rfl
  | [_] => by simp [pack]
  | _ :: _ :: r => by simp [pack, length_pack bo r]; omega

/-- `unpack` gives two bytes a word (R231). -/
@[simp] theorem length_unpack (bo : ByteOrder) (w : List Half) : (unpack bo w).length = 2 * w.length := by
  induction w with
  | nil => rfl
  | cons x r ih => simp [unpack, ih]; omega

@[simp] theorem length_sampleBytes (w : List Half) : (sampleBytes w).length = 2 * w.length := by
  induction w with
  | nil => rfl
  | cons x r ih => simp [sampleBytes, ih]; omega

/-- The bytes of the sample words, one word at a time (R103). -/
theorem getElem_sampleBytes : ∀ (w : List Half) (k : Nat) (h : k < w.length),
    (sampleBytes w)[2 * k]'(by simp; omega) = lowByte w[k] ∧
      (sampleBytes w)[2 * k + 1]'(by simp; omega) = highByte w[k]
  | x :: r, 0, _ => by simp [sampleBytes]
  | x :: r, k + 1, h => by
    have ih := getElem_sampleBytes r k (by simpa using h)
    simpa [sampleBytes, Nat.mul_add] using ih

/-- A written sample is read back (R103). -/
theorem sampleAt_writeSamples {s : State} {m : List Host.Cell} {words : List Half} (hm : s.mem = writeSamples m words)
    {k : Nat} (h : k < words.length) : s.sampleAt k = words[k] := by
  obtain ⟨h0, h1⟩ := getElem_sampleBytes words k h
  have r0 : Memory.read s.draws s.mem (sampleBase + 2 * k) = lowByte words[k] := by
    rw [hm, writeSamples, read_writeList_inside (by simp; omega), h0]
  have r1 : Memory.read s.draws s.mem (sampleBase + 2 * k + 1) = highByte words[k] := by
    rw [hm, writeSamples, Nat.add_assoc, read_writeList_inside (by simp; omega), h1]
  simp [State.sampleAt, r0, r1]

/-- A written scratch byte is read back (R102). -/
theorem scratchAt_writeScratch {s : State} {m : List Host.Cell} {bytes : List Byte} (hm : s.mem = writeScratch m bytes)
    {i : Nat} (h : i < bytes.length) : s.scratchAt i = bytes[i] := by
  rw [State.scratchAt, hm, writeScratch, read_writeList_inside h]

@[simp] theorem length_readScratch (s : State) (n : Nat) : (s.readScratch n).length = n := by simp [State.readScratch]

@[simp] theorem getElem_readScratch (s : State) (n i : Nat) (h : i < (s.readScratch n).length) :
    (s.readScratch n)[i] = s.scratchAt i := by simp [State.readScratch, State.scratchAt]

@[simp] theorem length_readPayload (s : State) (i n : Nat) : (s.readPayload i n).length = n := by
  simp [State.readPayload]

@[simp] theorem getElem_readPayload (s : State) (i n j : Nat) (h : j < (s.readPayload i n).length) :
    (s.readPayload i n)[j] = s.payloadAt (i + j) := by simp [State.readPayload, State.payloadAt, Nat.add_assoc]

@[simp] theorem length_readSamples (s : State) (n : Nat) : (s.readSamples n).length = n := by simp [State.readSamples]

end Sys2Proof.Machine
end

