-- ==== Sys2Proof/Laws/Analysis.lean ====
section
/-! SUPPORT. The ranges of the analysis' exact values (43_analyzer.md R311 to R317, 10_state.md R65 to R70). -/

namespace Sys2Proof.Machine

/-- A sample word's signed value. -/
theorem toInt_half (w : Half) : -32768 ≤ w.toInt ∧ w.toInt ≤ 32767 := by
  have := BitVec.toInt_lt (x := w)
  have := BitVec.le_toInt w
  norm_num at *; omega

/-- A block of `n` bytes has `n / 2` samples (R312). -/
@[simp] theorem length_samplesOf (bo : ByteOrder) : ∀ b : List Byte, (samplesOf bo b).length = b.length / 2
  | [] => rfl
  | [_] => by simp [samplesOf]
  | _ :: _ :: r => by simp [samplesOf, length_samplesOf bo r]; omega

/-- Every sample is a signed 16-bit value. -/
theorem samplesOf_bounds (bo : ByteOrder) : ∀ b : List Byte, ∀ x ∈ samplesOf bo b, -32768 ≤ x ∧ x ≤ 32767
  | [] => by simp [samplesOf]
  | [_] => by simp [samplesOf]
  | _ :: _ :: r => by
    intro x hx
    simp only [samplesOf, List.mem_cons] at hx
    rcases hx with rfl | hx
    · exact toInt_half _
    · exact samplesOf_bounds bo r x hx

theorem sumOf_le {xs : List Int} (h : ∀ x ∈ xs, -32768 ≤ x ∧ x ≤ 32767) : sumOf xs ≤ 32768 * xs.length := by
  induction xs with
  | nil => simp [sumOf, absOf]
  | cons x r ih =>
    have := ih fun y hy => h y (by simp [hy])
    have := h x (by simp)
    simp [sumOf, absOf] at *; omega

theorem maxAbsOf_le {xs : List Int} (h : ∀ x ∈ xs, -32768 ≤ x ∧ x ≤ 32767) : maxAbsOf xs ≤ 32768 := by
  induction xs with
  | nil => simp [maxAbsOf, absOf]
  | cons x r ih =>
    have := ih fun y hy => h y (by simp [hy])
    have := h x (by simp)
    simp [maxAbsOf, absOf] at *; omega

theorem minOf_bounds {xs : List Int} (h : ∀ x ∈ xs, -32768 ≤ x ∧ x ≤ 32767) :
    -32768 ≤ minOf xs ∧ minOf xs ≤ 32767 := by
  induction xs with
  | nil => simp [minOf]
  | cons x r ih =>
    have := ih fun y hy => h y (by simp [hy])
    have := h x (by simp)
    simp [minOf] at *; omega

theorem avgOf_le {xs : List Int} (h : ∀ x ∈ xs, -32768 ≤ x ∧ x ≤ 32767) : avgOf xs ≤ 32768 := by
  unfold avgOf; split
  · omega
  · have := sumOf_le h
    rw [Nat.div_le_iff_le_mul_add_pred (by omega), mul_comm]; omega

theorem activeOf_le (noise : Nat) (xs : List Int) : activeOf noise xs ≤ xs.length := by
  unfold activeOf absOf; exact List.countP_le_length.trans (by simp)

/-- ST_MIN as a signed register holds the minimum (R69). -/
theorem toInt_signExtend_minimum {x : Int} (h : -32768 ≤ x ∧ x ≤ 32767) :
    ((BitVec.ofInt 16 x).signExtend 32).toInt = x := by
  rw [BitVec.toInt_signExtend_of_le (by omega), BitVec.toInt_ofInt]
  rw [Int.bmod_eq_of_le] <;> norm_num <;> omega

/-- The scale brings the ratio into `[1, 2)`: `k <= a * 2^e`, and `a * 2^e < 2 * k` unless `e = 0`. -/
theorem ratioScale_spec : ∀ (fuel : Nat) {a k : Nat}, k ≤ a * 2 ^ fuel →
    k ≤ a * 2 ^ ratioScale fuel a k ∧ (ratioScale fuel a k = 0 ∨ a * 2 ^ ratioScale fuel a k < 2 * k)
  | 0, a, k, h => ⟨h, .inl rfl⟩
  | fuel + 1, a, k, h => by
    unfold ratioScale
    split
    · exact ⟨by simpa, .inl rfl⟩
    · obtain ⟨h1, h2⟩ := ratioScale_spec fuel (a := 2 * a) (k := k) (by rw [Nat.pow_succ] at h; linarith)
      have e : ∀ n, a * 2 ^ (n + 1) = 2 * a * 2 ^ n := by intro n; ring
      refine ⟨by rw [e]; exact h1, .inr ?_⟩
      rw [e]
      rcases h2 with h2 | h2
      · rw [h2]; omega
      · exact h2

/-- Rounding to nearest: the error is at most half a unit, and a tie gives an even integer. -/
theorem divNearestEven_spec (n : Nat) {d : Nat} (hd : 0 < d) :
    2 * n ≤ 2 * (d * divNearestEven n d) + d ∧ 2 * (d * divNearestEven n d) ≤ 2 * n + d ∧
      (2 * n = 2 * (d * divNearestEven n d) + d ∨ 2 * (d * divNearestEven n d) = 2 * n + d →
        divNearestEven n d % 2 = 0) := by
  have h := Nat.div_add_mod n d
  have hlt := Nat.mod_lt n hd
  have e : d * (n / d + 1) = d * (n / d) + d := by ring
  unfold divNearestEven
  split
  · omega
  · split
    · rw [e]; omega
    · split
      · omega
      · rw [e]; omega

end Sys2Proof.Machine
end

