-- ==== Sys2Proof/Laws/Decode.lean ====
section
/-! SUPPORT. The two fields of an encoded command, and a word as its fields (30_encoding.md R150, R156). -/

namespace Sys2Proof

/-- OP of an encoded command (R156). -/
@[simp] theorem opField_encode (i : Instr) : opField (encode i) = i.op := BitVec.extractLsb'_append_eq_right

/-- ARG of an encoded command (R156). -/
@[simp] theorem argField_encode (i : Instr) : argField (encode i) = BitVec.ofNat 24 i.arg :=
  BitVec.extractLsb'_append_eq_left

/-- A word is its ARG above its OP (R150). -/
@[simp] theorem argField_append_opField (c : Word) : argField c ++ opField c = c :=
  (BitVec.extractLsb'_append_extractLsb'_eq_extractLsb' (by rfl)).trans (by simp)

/-- The fields of a latched command are the latches (R80). -/
@[simp] theorem opField_append (arg : BitVec 24) (op : BitVec 8) : opField (arg ++ op) = op :=
  BitVec.extractLsb'_append_eq_right

@[simp] theorem argField_append (arg : BitVec 24) (op : BitVec 8) : argField (arg ++ op) = arg :=
  BitVec.extractLsb'_append_eq_left

/-- Decoding by the opcode: what each opcode decodes to (R153). -/
theorem decode_cases {c : Word} {i : Instr} (h : decode c = .command i) :
    (opField c = 0x00 ∧ argField c = 0 ∧ i = .nop) ∨ (opField c = 0x01 ∧ i = .pack (argField c).toNat) ∨
      (opField c = 0x02 ∧ i = .unpack (argField c).toNat) ∨ (opField c = 0x10 ∧ argField c = 0 ∧ i = .send) ∨
      (opField c = 0x20 ∧ argField c = 0 ∧ i = .recv) ∨ (opField c = 0x21 ∧ argField c = 0 ∧ i = .recvAnalyze) ∨
      (opField c = 0x30 ∧ i = .analyze (argField c).toNat) := by
  unfold decode noArg at h
  split at h
  · split at h <;> simp_all
  · split at h
    · simp_all
    · split at h
      · simp_all
      · split at h
        · split at h <;> simp_all
        · split at h
          · split at h <;> simp_all
          · split at h
            · split at h <;> simp_all
            · split at h <;> simp_all

end Sys2Proof
end

