-- ==== Sys2Proof/Laws/State.lean ====
section
/-! SUPPORT. One lemma per field per shared update of State, so that no proof unfolds a record update. -/

namespace Sys2Proof.Machine

/-! `pop` -/

@[simp] theorem pop_seqState (s : State) : s.pop.seqState = s.seqState := rfl
@[simp] theorem pop_statsValid (s : State) : s.pop.statsValid = s.statsValid := rfl
@[simp] theorem pop_errCode (s : State) : s.pop.errCode = s.errCode := rfl
@[simp] theorem pop_errOvf (s : State) : s.pop.errOvf = s.errOvf := rfl
@[simp] theorem pop_errCmd (s : State) : s.pop.errCmd = s.errCmd := rfl
@[simp] theorem pop_irqStatus (s : State) : s.pop.irqStatus = s.irqStatus := rfl
@[simp] theorem pop_irqEnable (s : State) : s.pop.irqEnable = s.irqEnable := rfl
@[simp] theorem pop_byteOrder (s : State) : s.pop.byteOrder = s.byteOrder := rfl
@[simp] theorem pop_capacity (s : State) : s.pop.capacity = s.capacity := rfl
@[simp] theorem pop_blockBytes (s : State) : s.pop.blockBytes = s.blockBytes := rfl
@[simp] theorem pop_payloadLen (s : State) : s.pop.payloadLen = s.payloadLen := rfl
@[simp] theorem pop_noiseThr (s : State) : s.pop.noiseThr = s.noiseThr := rfl
@[simp] theorem pop_moderateBp (s : State) : s.pop.moderateBp = s.moderateBp := rfl
@[simp] theorem pop_strongBp (s : State) : s.pop.strongBp = s.strongBp := rfl
@[simp] theorem pop_activeBp (s : State) : s.pop.activeBp = s.activeBp := rfl
@[simp] theorem pop_sampleRate (s : State) : s.pop.sampleRate = s.sampleRate := rfl
@[simp] theorem pop_pos (s : State) : s.pop.pos = s.pos := rfl
@[simp] theorem pop_bytesSent (s : State) : s.pop.bytesSent = s.bytesSent := rfl
@[simp] theorem pop_chunkIndex (s : State) : s.pop.chunkIndex = s.chunkIndex := rfl
@[simp] theorem pop_txFails (s : State) : s.pop.txFails = s.txFails := rfl
@[simp] theorem pop_lastOutcome (s : State) : s.pop.lastOutcome = s.lastOutcome := rfl
@[simp] theorem pop_lastIndex (s : State) : s.pop.lastIndex = s.lastIndex := rfl
@[simp] theorem pop_lastBytes (s : State) : s.pop.lastBytes = s.lastBytes := rfl
@[simp] theorem pop_rxSeq (s : State) : s.pop.rxSeq = s.rxSeq := rfl
@[simp] theorem pop_rxCount (s : State) : s.pop.rxCount = s.rxCount := rfl
@[simp] theorem pop_packedN (s : State) : s.pop.packedN = s.packedN := rfl
@[simp] theorem pop_stats (s : State) : s.pop.stats = s.stats := rfl
@[simp] theorem pop_mem (s : State) : s.pop.mem = s.mem := rfl
@[simp] theorem pop_curOp (s : State) : s.pop.curOp = s.curOp := rfl
@[simp] theorem pop_curArg (s : State) : s.pop.curArg = s.curArg := rfl
@[simp] theorem pop_curCs (s : State) : s.pop.curCs = s.curCs := rfl
@[simp] theorem pop_treq (s : State) : s.pop.treq = s.treq := rfl
@[simp] theorem pop_reports (s : State) : s.pop.reports = s.reports := rfl
@[simp] theorem pop_params (s : State) : s.pop.params = s.params := rfl
@[simp] theorem pop_inputs (s : State) : s.pop.inputs = s.inputs.tail := rfl
@[simp] theorem pop_hostResp (s : State) : s.pop.hostResp = s.hostResp := rfl
@[simp] theorem pop_draws (s : State) : s.pop.draws = s.draws := rfl

/-! `answerHost` -/

@[simp] theorem answerHost_seqState (r : HostResp) (s : State) : (s.answerHost r).seqState = s.seqState := rfl
@[simp] theorem answerHost_statsValid (r : HostResp) (s : State) : (s.answerHost r).statsValid = s.statsValid := rfl
@[simp] theorem answerHost_errCode (r : HostResp) (s : State) : (s.answerHost r).errCode = s.errCode := rfl
@[simp] theorem answerHost_errOvf (r : HostResp) (s : State) : (s.answerHost r).errOvf = s.errOvf := rfl
@[simp] theorem answerHost_errCmd (r : HostResp) (s : State) : (s.answerHost r).errCmd = s.errCmd := rfl
@[simp] theorem answerHost_irqStatus (r : HostResp) (s : State) : (s.answerHost r).irqStatus = s.irqStatus := rfl
@[simp] theorem answerHost_irqEnable (r : HostResp) (s : State) : (s.answerHost r).irqEnable = s.irqEnable := rfl
@[simp] theorem answerHost_byteOrder (r : HostResp) (s : State) : (s.answerHost r).byteOrder = s.byteOrder := rfl
@[simp] theorem answerHost_capacity (r : HostResp) (s : State) : (s.answerHost r).capacity = s.capacity := rfl
@[simp] theorem answerHost_blockBytes (r : HostResp) (s : State) : (s.answerHost r).blockBytes = s.blockBytes := rfl
@[simp] theorem answerHost_payloadLen (r : HostResp) (s : State) : (s.answerHost r).payloadLen = s.payloadLen := rfl
@[simp] theorem answerHost_noiseThr (r : HostResp) (s : State) : (s.answerHost r).noiseThr = s.noiseThr := rfl
@[simp] theorem answerHost_moderateBp (r : HostResp) (s : State) : (s.answerHost r).moderateBp = s.moderateBp := rfl
@[simp] theorem answerHost_strongBp (r : HostResp) (s : State) : (s.answerHost r).strongBp = s.strongBp := rfl
@[simp] theorem answerHost_activeBp (r : HostResp) (s : State) : (s.answerHost r).activeBp = s.activeBp := rfl
@[simp] theorem answerHost_sampleRate (r : HostResp) (s : State) : (s.answerHost r).sampleRate = s.sampleRate := rfl
@[simp] theorem answerHost_pos (r : HostResp) (s : State) : (s.answerHost r).pos = s.pos := rfl
@[simp] theorem answerHost_bytesSent (r : HostResp) (s : State) : (s.answerHost r).bytesSent = s.bytesSent := rfl
@[simp] theorem answerHost_chunkIndex (r : HostResp) (s : State) : (s.answerHost r).chunkIndex = s.chunkIndex := rfl
@[simp] theorem answerHost_txFails (r : HostResp) (s : State) : (s.answerHost r).txFails = s.txFails := rfl
@[simp] theorem answerHost_lastOutcome (r : HostResp) (s : State) : (s.answerHost r).lastOutcome = s.lastOutcome :=
  rfl
@[simp] theorem answerHost_lastIndex (r : HostResp) (s : State) : (s.answerHost r).lastIndex = s.lastIndex := rfl
@[simp] theorem answerHost_lastBytes (r : HostResp) (s : State) : (s.answerHost r).lastBytes = s.lastBytes := rfl
@[simp] theorem answerHost_rxSeq (r : HostResp) (s : State) : (s.answerHost r).rxSeq = s.rxSeq := rfl
@[simp] theorem answerHost_rxCount (r : HostResp) (s : State) : (s.answerHost r).rxCount = s.rxCount := rfl
@[simp] theorem answerHost_packedN (r : HostResp) (s : State) : (s.answerHost r).packedN = s.packedN := rfl
@[simp] theorem answerHost_stats (r : HostResp) (s : State) : (s.answerHost r).stats = s.stats := rfl
@[simp] theorem answerHost_mem (r : HostResp) (s : State) : (s.answerHost r).mem = s.mem := rfl
@[simp] theorem answerHost_curOp (r : HostResp) (s : State) : (s.answerHost r).curOp = s.curOp := rfl
@[simp] theorem answerHost_curArg (r : HostResp) (s : State) : (s.answerHost r).curArg = s.curArg := rfl
@[simp] theorem answerHost_curCs (r : HostResp) (s : State) : (s.answerHost r).curCs = s.curCs := rfl
@[simp] theorem answerHost_treq (r : HostResp) (s : State) : (s.answerHost r).treq = s.treq := rfl
@[simp] theorem answerHost_reports (r : HostResp) (s : State) : (s.answerHost r).reports = s.reports := rfl
@[simp] theorem answerHost_params (r : HostResp) (s : State) : (s.answerHost r).params = s.params := rfl
@[simp] theorem answerHost_inputs (r : HostResp) (s : State) : (s.answerHost r).inputs = s.inputs.tail := rfl
@[simp] theorem answerHost_hostResp (r : HostResp) (s : State) : (s.answerHost r).hostResp = r := rfl
@[simp] theorem answerHost_draws (r : HostResp) (s : State) : (s.answerHost r).draws = s.draws := rfl

/-! `drawn` -/

@[simp] theorem drawn_seqState (s : State) : s.drawn.seqState = s.seqState := rfl
@[simp] theorem drawn_statsValid (s : State) : s.drawn.statsValid = s.statsValid := rfl
@[simp] theorem drawn_errCode (s : State) : s.drawn.errCode = s.errCode := rfl
@[simp] theorem drawn_errOvf (s : State) : s.drawn.errOvf = s.errOvf := rfl
@[simp] theorem drawn_errCmd (s : State) : s.drawn.errCmd = s.errCmd := rfl
@[simp] theorem drawn_irqStatus (s : State) : s.drawn.irqStatus = s.irqStatus := rfl
@[simp] theorem drawn_irqEnable (s : State) : s.drawn.irqEnable = s.irqEnable := rfl
@[simp] theorem drawn_byteOrder (s : State) : s.drawn.byteOrder = s.byteOrder := rfl
@[simp] theorem drawn_capacity (s : State) : s.drawn.capacity = s.capacity := rfl
@[simp] theorem drawn_blockBytes (s : State) : s.drawn.blockBytes = s.blockBytes := rfl
@[simp] theorem drawn_payloadLen (s : State) : s.drawn.payloadLen = s.payloadLen := rfl
@[simp] theorem drawn_noiseThr (s : State) : s.drawn.noiseThr = s.noiseThr := rfl
@[simp] theorem drawn_moderateBp (s : State) : s.drawn.moderateBp = s.moderateBp := rfl
@[simp] theorem drawn_strongBp (s : State) : s.drawn.strongBp = s.strongBp := rfl
@[simp] theorem drawn_activeBp (s : State) : s.drawn.activeBp = s.activeBp := rfl
@[simp] theorem drawn_sampleRate (s : State) : s.drawn.sampleRate = s.sampleRate := rfl
@[simp] theorem drawn_pos (s : State) : s.drawn.pos = s.pos := rfl
@[simp] theorem drawn_bytesSent (s : State) : s.drawn.bytesSent = s.bytesSent := rfl
@[simp] theorem drawn_chunkIndex (s : State) : s.drawn.chunkIndex = s.chunkIndex := rfl
@[simp] theorem drawn_txFails (s : State) : s.drawn.txFails = s.txFails := rfl
@[simp] theorem drawn_lastOutcome (s : State) : s.drawn.lastOutcome = s.lastOutcome := rfl
@[simp] theorem drawn_lastIndex (s : State) : s.drawn.lastIndex = s.lastIndex := rfl
@[simp] theorem drawn_lastBytes (s : State) : s.drawn.lastBytes = s.lastBytes := rfl
@[simp] theorem drawn_rxSeq (s : State) : s.drawn.rxSeq = s.rxSeq := rfl
@[simp] theorem drawn_rxCount (s : State) : s.drawn.rxCount = s.rxCount := rfl
@[simp] theorem drawn_packedN (s : State) : s.drawn.packedN = s.packedN := rfl
@[simp] theorem drawn_stats (s : State) : s.drawn.stats = s.stats := rfl
@[simp] theorem drawn_mem (s : State) : s.drawn.mem = s.mem := rfl
@[simp] theorem drawn_curOp (s : State) : s.drawn.curOp = s.curOp := rfl
@[simp] theorem drawn_curArg (s : State) : s.drawn.curArg = s.curArg := rfl
@[simp] theorem drawn_curCs (s : State) : s.drawn.curCs = s.curCs := rfl
@[simp] theorem drawn_treq (s : State) : s.drawn.treq = s.treq := rfl
@[simp] theorem drawn_reports (s : State) : s.drawn.reports = s.reports := rfl
@[simp] theorem drawn_params (s : State) : s.drawn.params = s.params := rfl
@[simp] theorem drawn_inputs (s : State) : s.drawn.inputs = s.inputs := rfl
@[simp] theorem drawn_hostResp (s : State) : s.drawn.hostResp = s.hostResp := rfl
@[simp] theorem drawn_draws (s : State) : s.drawn.draws = s.draws + 1 := rfl

/-! `complete` -/

@[simp] theorem complete_seqState (s : State) : (complete s).seqState = .idle := rfl
@[simp] theorem complete_statsValid (s : State) : (complete s).statsValid = s.statsValid := rfl
@[simp] theorem complete_errCode (s : State) : (complete s).errCode = s.errCode := rfl
@[simp] theorem complete_errOvf (s : State) : (complete s).errOvf = s.errOvf := rfl
@[simp] theorem complete_errCmd (s : State) : (complete s).errCmd = s.errCmd := rfl
@[simp] theorem complete_irqStatus (s : State) : (complete s).irqStatus = s.irqStatus ||| irqDone := rfl
@[simp] theorem complete_irqEnable (s : State) : (complete s).irqEnable = s.irqEnable := rfl
@[simp] theorem complete_byteOrder (s : State) : (complete s).byteOrder = s.byteOrder := rfl
@[simp] theorem complete_capacity (s : State) : (complete s).capacity = s.capacity := rfl
@[simp] theorem complete_blockBytes (s : State) : (complete s).blockBytes = s.blockBytes := rfl
@[simp] theorem complete_payloadLen (s : State) : (complete s).payloadLen = s.payloadLen := rfl
@[simp] theorem complete_noiseThr (s : State) : (complete s).noiseThr = s.noiseThr := rfl
@[simp] theorem complete_moderateBp (s : State) : (complete s).moderateBp = s.moderateBp := rfl
@[simp] theorem complete_strongBp (s : State) : (complete s).strongBp = s.strongBp := rfl
@[simp] theorem complete_activeBp (s : State) : (complete s).activeBp = s.activeBp := rfl
@[simp] theorem complete_sampleRate (s : State) : (complete s).sampleRate = s.sampleRate := rfl
@[simp] theorem complete_pos (s : State) : (complete s).pos = s.pos := rfl
@[simp] theorem complete_bytesSent (s : State) : (complete s).bytesSent = s.bytesSent := rfl
@[simp] theorem complete_chunkIndex (s : State) : (complete s).chunkIndex = s.chunkIndex := rfl
@[simp] theorem complete_txFails (s : State) : (complete s).txFails = s.txFails := rfl
@[simp] theorem complete_lastOutcome (s : State) : (complete s).lastOutcome = s.lastOutcome := rfl
@[simp] theorem complete_lastIndex (s : State) : (complete s).lastIndex = s.lastIndex := rfl
@[simp] theorem complete_lastBytes (s : State) : (complete s).lastBytes = s.lastBytes := rfl
@[simp] theorem complete_rxSeq (s : State) : (complete s).rxSeq = s.rxSeq := rfl
@[simp] theorem complete_rxCount (s : State) : (complete s).rxCount = s.rxCount := rfl
@[simp] theorem complete_packedN (s : State) : (complete s).packedN = s.packedN := rfl
@[simp] theorem complete_stats (s : State) : (complete s).stats = s.stats := rfl
@[simp] theorem complete_mem (s : State) : (complete s).mem = s.mem := rfl
@[simp] theorem complete_curOp (s : State) : (complete s).curOp = s.curOp := rfl
@[simp] theorem complete_curArg (s : State) : (complete s).curArg = s.curArg := rfl
@[simp] theorem complete_curCs (s : State) : (complete s).curCs = s.curCs := rfl
@[simp] theorem complete_treq (s : State) : (complete s).treq = s.treq := rfl
@[simp] theorem complete_reports (s : State) : (complete s).reports = s.reports := rfl
@[simp] theorem complete_params (s : State) : (complete s).params = s.params := rfl
@[simp] theorem complete_inputs (s : State) : (complete s).inputs = s.inputs := rfl
@[simp] theorem complete_hostResp (s : State) : (complete s).hostResp = s.hostResp := rfl
@[simp] theorem complete_draws (s : State) : (complete s).draws = s.draws := rfl

/-! `start` -/

@[simp] theorem start_seqState (i : Instr) (s : State) : (start i s).seqState = firstState i := rfl
@[simp] theorem start_statsValid (i : Instr) (s : State) : (start i s).statsValid = s.statsValid := rfl
@[simp] theorem start_errCode (i : Instr) (s : State) : (start i s).errCode = s.errCode := rfl
@[simp] theorem start_errOvf (i : Instr) (s : State) : (start i s).errOvf = s.errOvf := rfl
@[simp] theorem start_errCmd (i : Instr) (s : State) : (start i s).errCmd = s.errCmd := rfl
@[simp] theorem start_irqStatus (i : Instr) (s : State) : (start i s).irqStatus = s.irqStatus := rfl
@[simp] theorem start_irqEnable (i : Instr) (s : State) : (start i s).irqEnable = s.irqEnable := rfl
@[simp] theorem start_byteOrder (i : Instr) (s : State) : (start i s).byteOrder = s.byteOrder := rfl
@[simp] theorem start_capacity (i : Instr) (s : State) : (start i s).capacity = s.capacity := rfl
@[simp] theorem start_blockBytes (i : Instr) (s : State) : (start i s).blockBytes = s.blockBytes := rfl
@[simp] theorem start_payloadLen (i : Instr) (s : State) : (start i s).payloadLen = s.payloadLen := rfl
@[simp] theorem start_noiseThr (i : Instr) (s : State) : (start i s).noiseThr = s.noiseThr := rfl
@[simp] theorem start_moderateBp (i : Instr) (s : State) : (start i s).moderateBp = s.moderateBp := rfl
@[simp] theorem start_strongBp (i : Instr) (s : State) : (start i s).strongBp = s.strongBp := rfl
@[simp] theorem start_activeBp (i : Instr) (s : State) : (start i s).activeBp = s.activeBp := rfl
@[simp] theorem start_sampleRate (i : Instr) (s : State) : (start i s).sampleRate = s.sampleRate := rfl
@[simp] theorem start_pos (i : Instr) (s : State) : (start i s).pos = s.pos := rfl
@[simp] theorem start_bytesSent (i : Instr) (s : State) : (start i s).bytesSent = s.bytesSent := rfl
@[simp] theorem start_chunkIndex (i : Instr) (s : State) : (start i s).chunkIndex = s.chunkIndex := rfl
@[simp] theorem start_txFails (i : Instr) (s : State) : (start i s).txFails = s.txFails := rfl
@[simp] theorem start_lastOutcome (i : Instr) (s : State) : (start i s).lastOutcome = s.lastOutcome := rfl
@[simp] theorem start_lastIndex (i : Instr) (s : State) : (start i s).lastIndex = s.lastIndex := rfl
@[simp] theorem start_lastBytes (i : Instr) (s : State) : (start i s).lastBytes = s.lastBytes := rfl
@[simp] theorem start_rxSeq (i : Instr) (s : State) : (start i s).rxSeq = s.rxSeq := rfl
@[simp] theorem start_rxCount (i : Instr) (s : State) : (start i s).rxCount = s.rxCount := rfl
@[simp] theorem start_packedN (i : Instr) (s : State) : (start i s).packedN = s.packedN := rfl
@[simp] theorem start_stats (i : Instr) (s : State) : (start i s).stats = s.stats := rfl
@[simp] theorem start_mem (i : Instr) (s : State) : (start i s).mem = s.mem := rfl
@[simp] theorem start_curOp (i : Instr) (s : State) : (start i s).curOp = i.op := rfl
@[simp] theorem start_curArg (i : Instr) (s : State) : (start i s).curArg = BitVec.ofNat 24 i.arg := rfl
@[simp] theorem start_curCs (i : Instr) (s : State) : (start i s).curCs = s.curCs := rfl
@[simp] theorem start_treq (i : Instr) (s : State) : (start i s).treq = s.treq := rfl
@[simp] theorem start_reports (i : Instr) (s : State) : (start i s).reports = s.reports := rfl
@[simp] theorem start_params (i : Instr) (s : State) : (start i s).params = s.params := rfl
@[simp] theorem start_inputs (i : Instr) (s : State) : (start i s).inputs = s.inputs := rfl
@[simp] theorem start_hostResp (i : Instr) (s : State) : (start i s).hostResp = s.hostResp := rfl
@[simp] theorem start_draws (i : Instr) (s : State) : (start i s).draws = s.draws := rfl

/-! `clearSendCounters` -/

@[simp] theorem clearSendCounters_seqState (s : State) : (clearSendCounters s).seqState = s.seqState := rfl
@[simp] theorem clearSendCounters_statsValid (s : State) : (clearSendCounters s).statsValid = s.statsValid := rfl
@[simp] theorem clearSendCounters_errCode (s : State) : (clearSendCounters s).errCode = s.errCode := rfl
@[simp] theorem clearSendCounters_errOvf (s : State) : (clearSendCounters s).errOvf = s.errOvf := rfl
@[simp] theorem clearSendCounters_errCmd (s : State) : (clearSendCounters s).errCmd = s.errCmd := rfl
@[simp] theorem clearSendCounters_irqStatus (s : State) : (clearSendCounters s).irqStatus = s.irqStatus := rfl
@[simp] theorem clearSendCounters_irqEnable (s : State) : (clearSendCounters s).irqEnable = s.irqEnable := rfl
@[simp] theorem clearSendCounters_byteOrder (s : State) : (clearSendCounters s).byteOrder = s.byteOrder := rfl
@[simp] theorem clearSendCounters_capacity (s : State) : (clearSendCounters s).capacity = s.capacity := rfl
@[simp] theorem clearSendCounters_blockBytes (s : State) : (clearSendCounters s).blockBytes = s.blockBytes := rfl
@[simp] theorem clearSendCounters_payloadLen (s : State) : (clearSendCounters s).payloadLen = s.payloadLen := rfl
@[simp] theorem clearSendCounters_noiseThr (s : State) : (clearSendCounters s).noiseThr = s.noiseThr := rfl
@[simp] theorem clearSendCounters_moderateBp (s : State) : (clearSendCounters s).moderateBp = s.moderateBp := rfl
@[simp] theorem clearSendCounters_strongBp (s : State) : (clearSendCounters s).strongBp = s.strongBp := rfl
@[simp] theorem clearSendCounters_activeBp (s : State) : (clearSendCounters s).activeBp = s.activeBp := rfl
@[simp] theorem clearSendCounters_sampleRate (s : State) : (clearSendCounters s).sampleRate = s.sampleRate := rfl
@[simp] theorem clearSendCounters_pos (s : State) : (clearSendCounters s).pos = 0 := rfl
@[simp] theorem clearSendCounters_bytesSent (s : State) : (clearSendCounters s).bytesSent = 0 := rfl
@[simp] theorem clearSendCounters_chunkIndex (s : State) : (clearSendCounters s).chunkIndex = 0 := rfl
@[simp] theorem clearSendCounters_txFails (s : State) : (clearSendCounters s).txFails = 0 := rfl
@[simp] theorem clearSendCounters_lastOutcome (s : State) : (clearSendCounters s).lastOutcome = s.lastOutcome := rfl
@[simp] theorem clearSendCounters_lastIndex (s : State) : (clearSendCounters s).lastIndex = s.lastIndex := rfl
@[simp] theorem clearSendCounters_lastBytes (s : State) : (clearSendCounters s).lastBytes = s.lastBytes := rfl
@[simp] theorem clearSendCounters_rxSeq (s : State) : (clearSendCounters s).rxSeq = s.rxSeq := rfl
@[simp] theorem clearSendCounters_rxCount (s : State) : (clearSendCounters s).rxCount = s.rxCount := rfl
@[simp] theorem clearSendCounters_packedN (s : State) : (clearSendCounters s).packedN = s.packedN := rfl
@[simp] theorem clearSendCounters_stats (s : State) : (clearSendCounters s).stats = s.stats := rfl
@[simp] theorem clearSendCounters_mem (s : State) : (clearSendCounters s).mem = s.mem := rfl
@[simp] theorem clearSendCounters_curOp (s : State) : (clearSendCounters s).curOp = s.curOp := rfl
@[simp] theorem clearSendCounters_curArg (s : State) : (clearSendCounters s).curArg = s.curArg := rfl
@[simp] theorem clearSendCounters_curCs (s : State) : (clearSendCounters s).curCs = s.curCs := rfl
@[simp] theorem clearSendCounters_treq (s : State) : (clearSendCounters s).treq = s.treq := rfl
@[simp] theorem clearSendCounters_reports (s : State) : (clearSendCounters s).reports = s.reports := rfl
@[simp] theorem clearSendCounters_params (s : State) : (clearSendCounters s).params = s.params := rfl
@[simp] theorem clearSendCounters_inputs (s : State) : (clearSendCounters s).inputs = s.inputs := rfl
@[simp] theorem clearSendCounters_hostResp (s : State) : (clearSendCounters s).hostResp = s.hostResp := rfl
@[simp] theorem clearSendCounters_draws (s : State) : (clearSendCounters s).draws = s.draws := rfl

/-! `emitChunk` -/

@[simp] theorem emitChunk_seqState (k : ChunkKind) (i b : Word) (s : State) : (emitChunk k i b s).seqState = s.seqState :=
  rfl
@[simp] theorem emitChunk_statsValid (k : ChunkKind) (i b : Word) (s : State) : (emitChunk k i b s).statsValid = s.statsValid :=
  rfl
@[simp] theorem emitChunk_errCode (k : ChunkKind) (i b : Word) (s : State) : (emitChunk k i b s).errCode = s.errCode :=
  rfl
@[simp] theorem emitChunk_errOvf (k : ChunkKind) (i b : Word) (s : State) : (emitChunk k i b s).errOvf = s.errOvf :=
  rfl
@[simp] theorem emitChunk_errCmd (k : ChunkKind) (i b : Word) (s : State) : (emitChunk k i b s).errCmd = s.errCmd :=
  rfl
@[simp] theorem emitChunk_irqStatus (k : ChunkKind) (i b : Word) (s : State) : (emitChunk k i b s).irqStatus = s.irqStatus :=
  rfl
@[simp] theorem emitChunk_irqEnable (k : ChunkKind) (i b : Word) (s : State) : (emitChunk k i b s).irqEnable = s.irqEnable :=
  rfl
@[simp] theorem emitChunk_byteOrder (k : ChunkKind) (i b : Word) (s : State) : (emitChunk k i b s).byteOrder = s.byteOrder :=
  rfl
@[simp] theorem emitChunk_capacity (k : ChunkKind) (i b : Word) (s : State) : (emitChunk k i b s).capacity = s.capacity :=
  rfl
@[simp] theorem emitChunk_blockBytes (k : ChunkKind) (i b : Word) (s : State) : (emitChunk k i b s).blockBytes = s.blockBytes :=
  rfl
@[simp] theorem emitChunk_payloadLen (k : ChunkKind) (i b : Word) (s : State) : (emitChunk k i b s).payloadLen = s.payloadLen :=
  rfl
@[simp] theorem emitChunk_noiseThr (k : ChunkKind) (i b : Word) (s : State) : (emitChunk k i b s).noiseThr = s.noiseThr :=
  rfl
@[simp] theorem emitChunk_moderateBp (k : ChunkKind) (i b : Word) (s : State) : (emitChunk k i b s).moderateBp = s.moderateBp :=
  rfl
@[simp] theorem emitChunk_strongBp (k : ChunkKind) (i b : Word) (s : State) : (emitChunk k i b s).strongBp = s.strongBp :=
  rfl
@[simp] theorem emitChunk_activeBp (k : ChunkKind) (i b : Word) (s : State) : (emitChunk k i b s).activeBp = s.activeBp :=
  rfl
@[simp] theorem emitChunk_sampleRate (k : ChunkKind) (i b : Word) (s : State) : (emitChunk k i b s).sampleRate = s.sampleRate :=
  rfl
@[simp] theorem emitChunk_pos (k : ChunkKind) (i b : Word) (s : State) : (emitChunk k i b s).pos = s.pos := rfl
@[simp] theorem emitChunk_bytesSent (k : ChunkKind) (i b : Word) (s : State) : (emitChunk k i b s).bytesSent = s.bytesSent :=
  rfl
@[simp] theorem emitChunk_chunkIndex (k : ChunkKind) (i b : Word) (s : State) : (emitChunk k i b s).chunkIndex = s.chunkIndex :=
  rfl
@[simp] theorem emitChunk_txFails (k : ChunkKind) (i b : Word) (s : State) : (emitChunk k i b s).txFails = s.txFails :=
  rfl
@[simp] theorem emitChunk_lastOutcome (k : ChunkKind) (i b : Word) (s : State) : (emitChunk k i b s).lastOutcome = .outcome k :=
  rfl
@[simp] theorem emitChunk_lastIndex (k : ChunkKind) (i b : Word) (s : State) : (emitChunk k i b s).lastIndex = i :=
  rfl
@[simp] theorem emitChunk_lastBytes (k : ChunkKind) (i b : Word) (s : State) : (emitChunk k i b s).lastBytes = b :=
  rfl
@[simp] theorem emitChunk_rxSeq (k : ChunkKind) (i b : Word) (s : State) : (emitChunk k i b s).rxSeq = s.rxSeq := rfl
@[simp] theorem emitChunk_rxCount (k : ChunkKind) (i b : Word) (s : State) : (emitChunk k i b s).rxCount = s.rxCount :=
  rfl
@[simp] theorem emitChunk_packedN (k : ChunkKind) (i b : Word) (s : State) : (emitChunk k i b s).packedN = s.packedN :=
  rfl
@[simp] theorem emitChunk_stats (k : ChunkKind) (i b : Word) (s : State) : (emitChunk k i b s).stats = s.stats := rfl
@[simp] theorem emitChunk_mem (k : ChunkKind) (i b : Word) (s : State) : (emitChunk k i b s).mem = s.mem := rfl
@[simp] theorem emitChunk_curOp (k : ChunkKind) (i b : Word) (s : State) : (emitChunk k i b s).curOp = s.curOp := rfl
@[simp] theorem emitChunk_curArg (k : ChunkKind) (i b : Word) (s : State) : (emitChunk k i b s).curArg = s.curArg :=
  rfl
@[simp] theorem emitChunk_curCs (k : ChunkKind) (i b : Word) (s : State) : (emitChunk k i b s).curCs = s.curCs := rfl
@[simp] theorem emitChunk_treq (k : ChunkKind) (i b : Word) (s : State) : (emitChunk k i b s).treq = s.treq := rfl
@[simp] theorem emitChunk_reports (k : ChunkKind) (i b : Word) (s : State) : (emitChunk k i b s).reports = s.reports ++ [.chunk k i b] :=
  rfl
@[simp] theorem emitChunk_params (k : ChunkKind) (i b : Word) (s : State) : (emitChunk k i b s).params = s.params :=
  rfl
@[simp] theorem emitChunk_inputs (k : ChunkKind) (i b : Word) (s : State) : (emitChunk k i b s).inputs = s.inputs :=
  rfl
@[simp] theorem emitChunk_hostResp (k : ChunkKind) (i b : Word) (s : State) : (emitChunk k i b s).hostResp = s.hostResp :=
  rfl
@[simp] theorem emitChunk_draws (k : ChunkKind) (i b : Word) (s : State) : (emitChunk k i b s).draws = s.draws := rfl

/-! `commitStats` -/

@[simp] theorem commitStats_seqState (a : AudioStats) (s : State) : (commitStats a s).seqState = s.seqState := rfl
@[simp] theorem commitStats_statsValid (a : AudioStats) (s : State) : (commitStats a s).statsValid = true := rfl
@[simp] theorem commitStats_errCode (a : AudioStats) (s : State) : (commitStats a s).errCode = s.errCode := rfl
@[simp] theorem commitStats_errOvf (a : AudioStats) (s : State) : (commitStats a s).errOvf = s.errOvf := rfl
@[simp] theorem commitStats_errCmd (a : AudioStats) (s : State) : (commitStats a s).errCmd = s.errCmd := rfl
@[simp] theorem commitStats_irqStatus (a : AudioStats) (s : State) : (commitStats a s).irqStatus = s.irqStatus := rfl
@[simp] theorem commitStats_irqEnable (a : AudioStats) (s : State) : (commitStats a s).irqEnable = s.irqEnable := rfl
@[simp] theorem commitStats_byteOrder (a : AudioStats) (s : State) : (commitStats a s).byteOrder = s.byteOrder := rfl
@[simp] theorem commitStats_capacity (a : AudioStats) (s : State) : (commitStats a s).capacity = s.capacity := rfl
@[simp] theorem commitStats_blockBytes (a : AudioStats) (s : State) : (commitStats a s).blockBytes = s.blockBytes :=
  rfl
@[simp] theorem commitStats_payloadLen (a : AudioStats) (s : State) : (commitStats a s).payloadLen = s.payloadLen :=
  rfl
@[simp] theorem commitStats_noiseThr (a : AudioStats) (s : State) : (commitStats a s).noiseThr = s.noiseThr := rfl
@[simp] theorem commitStats_moderateBp (a : AudioStats) (s : State) : (commitStats a s).moderateBp = s.moderateBp :=
  rfl
@[simp] theorem commitStats_strongBp (a : AudioStats) (s : State) : (commitStats a s).strongBp = s.strongBp := rfl
@[simp] theorem commitStats_activeBp (a : AudioStats) (s : State) : (commitStats a s).activeBp = s.activeBp := rfl
@[simp] theorem commitStats_sampleRate (a : AudioStats) (s : State) : (commitStats a s).sampleRate = s.sampleRate :=
  rfl
@[simp] theorem commitStats_pos (a : AudioStats) (s : State) : (commitStats a s).pos = s.pos := rfl
@[simp] theorem commitStats_bytesSent (a : AudioStats) (s : State) : (commitStats a s).bytesSent = s.bytesSent := rfl
@[simp] theorem commitStats_chunkIndex (a : AudioStats) (s : State) : (commitStats a s).chunkIndex = s.chunkIndex :=
  rfl
@[simp] theorem commitStats_txFails (a : AudioStats) (s : State) : (commitStats a s).txFails = s.txFails := rfl
@[simp] theorem commitStats_lastOutcome (a : AudioStats) (s : State) : (commitStats a s).lastOutcome = s.lastOutcome :=
  rfl
@[simp] theorem commitStats_lastIndex (a : AudioStats) (s : State) : (commitStats a s).lastIndex = s.lastIndex := rfl
@[simp] theorem commitStats_lastBytes (a : AudioStats) (s : State) : (commitStats a s).lastBytes = s.lastBytes := rfl
@[simp] theorem commitStats_rxSeq (a : AudioStats) (s : State) : (commitStats a s).rxSeq = s.rxSeq := rfl
@[simp] theorem commitStats_rxCount (a : AudioStats) (s : State) : (commitStats a s).rxCount = s.rxCount := rfl
@[simp] theorem commitStats_packedN (a : AudioStats) (s : State) : (commitStats a s).packedN = s.packedN := rfl
@[simp] theorem commitStats_stats (a : AudioStats) (s : State) : (commitStats a s).stats = a := rfl
@[simp] theorem commitStats_mem (a : AudioStats) (s : State) : (commitStats a s).mem = s.mem := rfl
@[simp] theorem commitStats_curOp (a : AudioStats) (s : State) : (commitStats a s).curOp = s.curOp := rfl
@[simp] theorem commitStats_curArg (a : AudioStats) (s : State) : (commitStats a s).curArg = s.curArg := rfl
@[simp] theorem commitStats_curCs (a : AudioStats) (s : State) : (commitStats a s).curCs = s.curCs := rfl
@[simp] theorem commitStats_treq (a : AudioStats) (s : State) : (commitStats a s).treq = s.treq := rfl
@[simp] theorem commitStats_reports (a : AudioStats) (s : State) : (commitStats a s).reports = s.reports ++ [.stats a] :=
  rfl
@[simp] theorem commitStats_params (a : AudioStats) (s : State) : (commitStats a s).params = s.params := rfl
@[simp] theorem commitStats_inputs (a : AudioStats) (s : State) : (commitStats a s).inputs = s.inputs := rfl
@[simp] theorem commitStats_hostResp (a : AudioStats) (s : State) : (commitStats a s).hostResp = s.hostResp := rfl
@[simp] theorem commitStats_draws (a : AudioStats) (s : State) : (commitStats a s).draws = s.draws := rfl

/-! `cmdError` -/

@[simp] theorem cmdError_seqState (c : ErrCode) (w : Word) (s : State) : (cmdError c w s).seqState = s.seqState :=
  by unfold cmdError; split <;> rfl
@[simp] theorem cmdError_statsValid (c : ErrCode) (w : Word) (s : State) : (cmdError c w s).statsValid = s.statsValid :=
  by unfold cmdError; split <;> rfl
@[simp] theorem cmdError_errCode (c : ErrCode) (w : Word) (s : State) : (cmdError c w s).errCode = if s.errCode = .noError then c else s.errCode :=
  by unfold cmdError; split <;> simp_all
@[simp] theorem cmdError_errOvf (c : ErrCode) (w : Word) (s : State) : (cmdError c w s).errOvf = if s.errCode = .noError then s.errOvf else true :=
  by unfold cmdError; split <;> simp_all
@[simp] theorem cmdError_errCmd (c : ErrCode) (w : Word) (s : State) : (cmdError c w s).errCmd = if s.errCode = .noError then w else s.errCmd :=
  by unfold cmdError; split <;> simp_all
@[simp] theorem cmdError_irqStatus (c : ErrCode) (w : Word) (s : State) : (cmdError c w s).irqStatus = s.irqStatus ||| irqErr :=
  by unfold cmdError; split <;> rfl
@[simp] theorem cmdError_irqEnable (c : ErrCode) (w : Word) (s : State) : (cmdError c w s).irqEnable = s.irqEnable :=
  by unfold cmdError; split <;> rfl
@[simp] theorem cmdError_byteOrder (c : ErrCode) (w : Word) (s : State) : (cmdError c w s).byteOrder = s.byteOrder :=
  by unfold cmdError; split <;> rfl
@[simp] theorem cmdError_capacity (c : ErrCode) (w : Word) (s : State) : (cmdError c w s).capacity = s.capacity :=
  by unfold cmdError; split <;> rfl
@[simp] theorem cmdError_blockBytes (c : ErrCode) (w : Word) (s : State) : (cmdError c w s).blockBytes = s.blockBytes :=
  by unfold cmdError; split <;> rfl
@[simp] theorem cmdError_payloadLen (c : ErrCode) (w : Word) (s : State) : (cmdError c w s).payloadLen = s.payloadLen :=
  by unfold cmdError; split <;> rfl
@[simp] theorem cmdError_noiseThr (c : ErrCode) (w : Word) (s : State) : (cmdError c w s).noiseThr = s.noiseThr :=
  by unfold cmdError; split <;> rfl
@[simp] theorem cmdError_moderateBp (c : ErrCode) (w : Word) (s : State) : (cmdError c w s).moderateBp = s.moderateBp :=
  by unfold cmdError; split <;> rfl
@[simp] theorem cmdError_strongBp (c : ErrCode) (w : Word) (s : State) : (cmdError c w s).strongBp = s.strongBp :=
  by unfold cmdError; split <;> rfl
@[simp] theorem cmdError_activeBp (c : ErrCode) (w : Word) (s : State) : (cmdError c w s).activeBp = s.activeBp :=
  by unfold cmdError; split <;> rfl
@[simp] theorem cmdError_sampleRate (c : ErrCode) (w : Word) (s : State) : (cmdError c w s).sampleRate = s.sampleRate :=
  by unfold cmdError; split <;> rfl
@[simp] theorem cmdError_pos (c : ErrCode) (w : Word) (s : State) : (cmdError c w s).pos = s.pos :=
  by unfold cmdError; split <;> rfl
@[simp] theorem cmdError_bytesSent (c : ErrCode) (w : Word) (s : State) : (cmdError c w s).bytesSent = s.bytesSent :=
  by unfold cmdError; split <;> rfl
@[simp] theorem cmdError_chunkIndex (c : ErrCode) (w : Word) (s : State) : (cmdError c w s).chunkIndex = s.chunkIndex :=
  by unfold cmdError; split <;> rfl
@[simp] theorem cmdError_txFails (c : ErrCode) (w : Word) (s : State) : (cmdError c w s).txFails = s.txFails :=
  by unfold cmdError; split <;> rfl
@[simp] theorem cmdError_lastOutcome (c : ErrCode) (w : Word) (s : State) : (cmdError c w s).lastOutcome = s.lastOutcome :=
  by unfold cmdError; split <;> rfl
@[simp] theorem cmdError_lastIndex (c : ErrCode) (w : Word) (s : State) : (cmdError c w s).lastIndex = s.lastIndex :=
  by unfold cmdError; split <;> rfl
@[simp] theorem cmdError_lastBytes (c : ErrCode) (w : Word) (s : State) : (cmdError c w s).lastBytes = s.lastBytes :=
  by unfold cmdError; split <;> rfl
@[simp] theorem cmdError_rxSeq (c : ErrCode) (w : Word) (s : State) : (cmdError c w s).rxSeq = s.rxSeq :=
  by unfold cmdError; split <;> rfl
@[simp] theorem cmdError_rxCount (c : ErrCode) (w : Word) (s : State) : (cmdError c w s).rxCount = s.rxCount :=
  by unfold cmdError; split <;> rfl
@[simp] theorem cmdError_packedN (c : ErrCode) (w : Word) (s : State) : (cmdError c w s).packedN = s.packedN :=
  by unfold cmdError; split <;> rfl
@[simp] theorem cmdError_stats (c : ErrCode) (w : Word) (s : State) : (cmdError c w s).stats = s.stats :=
  by unfold cmdError; split <;> rfl
@[simp] theorem cmdError_mem (c : ErrCode) (w : Word) (s : State) : (cmdError c w s).mem = s.mem :=
  by unfold cmdError; split <;> rfl
@[simp] theorem cmdError_curOp (c : ErrCode) (w : Word) (s : State) : (cmdError c w s).curOp = s.curOp :=
  by unfold cmdError; split <;> rfl
@[simp] theorem cmdError_curArg (c : ErrCode) (w : Word) (s : State) : (cmdError c w s).curArg = s.curArg :=
  by unfold cmdError; split <;> rfl
@[simp] theorem cmdError_curCs (c : ErrCode) (w : Word) (s : State) : (cmdError c w s).curCs = s.curCs :=
  by unfold cmdError; split <;> rfl
@[simp] theorem cmdError_treq (c : ErrCode) (w : Word) (s : State) : (cmdError c w s).treq = s.treq :=
  by unfold cmdError; split <;> rfl
@[simp] theorem cmdError_reports (c : ErrCode) (w : Word) (s : State) : (cmdError c w s).reports = s.reports :=
  by unfold cmdError; split <;> rfl
@[simp] theorem cmdError_params (c : ErrCode) (w : Word) (s : State) : (cmdError c w s).params = s.params :=
  by unfold cmdError; split <;> rfl
@[simp] theorem cmdError_inputs (c : ErrCode) (w : Word) (s : State) : (cmdError c w s).inputs = s.inputs :=
  by unfold cmdError; split <;> rfl
@[simp] theorem cmdError_hostResp (c : ErrCode) (w : Word) (s : State) : (cmdError c w s).hostResp = s.hostResp :=
  by unfold cmdError; split <;> rfl
@[simp] theorem cmdError_draws (c : ErrCode) (w : Word) (s : State) : (cmdError c w s).draws = s.draws :=
  by unfold cmdError; split <;> rfl

/-! `acknowledge` -/

@[simp] theorem acknowledge_seqState (o : BitVec 4) (s : State) : (acknowledge o s).seqState = s.seqState :=
  by unfold acknowledge; split <;> rfl
@[simp] theorem acknowledge_statsValid (o : BitVec 4) (s : State) : (acknowledge o s).statsValid = s.statsValid :=
  by unfold acknowledge; split <;> rfl
@[simp] theorem acknowledge_errCode (o : BitVec 4) (s : State) : (acknowledge o s).errCode = if o &&& irqErr = 0 then s.errCode else .noError :=
  by unfold acknowledge; split <;> simp_all
@[simp] theorem acknowledge_errOvf (o : BitVec 4) (s : State) : (acknowledge o s).errOvf = if o &&& irqErr = 0 then s.errOvf else false :=
  by unfold acknowledge; split <;> simp_all
@[simp] theorem acknowledge_errCmd (o : BitVec 4) (s : State) : (acknowledge o s).errCmd = if o &&& irqErr = 0 then s.errCmd else 0 :=
  by unfold acknowledge; split <;> simp_all
@[simp] theorem acknowledge_irqStatus (o : BitVec 4) (s : State) : (acknowledge o s).irqStatus = s.irqStatus &&& ~~~o :=
  by unfold acknowledge; split <;> rfl
@[simp] theorem acknowledge_irqEnable (o : BitVec 4) (s : State) : (acknowledge o s).irqEnable = s.irqEnable :=
  by unfold acknowledge; split <;> rfl
@[simp] theorem acknowledge_byteOrder (o : BitVec 4) (s : State) : (acknowledge o s).byteOrder = s.byteOrder :=
  by unfold acknowledge; split <;> rfl
@[simp] theorem acknowledge_capacity (o : BitVec 4) (s : State) : (acknowledge o s).capacity = s.capacity :=
  by unfold acknowledge; split <;> rfl
@[simp] theorem acknowledge_blockBytes (o : BitVec 4) (s : State) : (acknowledge o s).blockBytes = s.blockBytes :=
  by unfold acknowledge; split <;> rfl
@[simp] theorem acknowledge_payloadLen (o : BitVec 4) (s : State) : (acknowledge o s).payloadLen = s.payloadLen :=
  by unfold acknowledge; split <;> rfl
@[simp] theorem acknowledge_noiseThr (o : BitVec 4) (s : State) : (acknowledge o s).noiseThr = s.noiseThr :=
  by unfold acknowledge; split <;> rfl
@[simp] theorem acknowledge_moderateBp (o : BitVec 4) (s : State) : (acknowledge o s).moderateBp = s.moderateBp :=
  by unfold acknowledge; split <;> rfl
@[simp] theorem acknowledge_strongBp (o : BitVec 4) (s : State) : (acknowledge o s).strongBp = s.strongBp :=
  by unfold acknowledge; split <;> rfl
@[simp] theorem acknowledge_activeBp (o : BitVec 4) (s : State) : (acknowledge o s).activeBp = s.activeBp :=
  by unfold acknowledge; split <;> rfl
@[simp] theorem acknowledge_sampleRate (o : BitVec 4) (s : State) : (acknowledge o s).sampleRate = s.sampleRate :=
  by unfold acknowledge; split <;> rfl
@[simp] theorem acknowledge_pos (o : BitVec 4) (s : State) : (acknowledge o s).pos = s.pos :=
  by unfold acknowledge; split <;> rfl
@[simp] theorem acknowledge_bytesSent (o : BitVec 4) (s : State) : (acknowledge o s).bytesSent = s.bytesSent :=
  by unfold acknowledge; split <;> rfl
@[simp] theorem acknowledge_chunkIndex (o : BitVec 4) (s : State) : (acknowledge o s).chunkIndex = s.chunkIndex :=
  by unfold acknowledge; split <;> rfl
@[simp] theorem acknowledge_txFails (o : BitVec 4) (s : State) : (acknowledge o s).txFails = s.txFails :=
  by unfold acknowledge; split <;> rfl
@[simp] theorem acknowledge_lastOutcome (o : BitVec 4) (s : State) : (acknowledge o s).lastOutcome = s.lastOutcome :=
  by unfold acknowledge; split <;> rfl
@[simp] theorem acknowledge_lastIndex (o : BitVec 4) (s : State) : (acknowledge o s).lastIndex = s.lastIndex :=
  by unfold acknowledge; split <;> rfl
@[simp] theorem acknowledge_lastBytes (o : BitVec 4) (s : State) : (acknowledge o s).lastBytes = s.lastBytes :=
  by unfold acknowledge; split <;> rfl
@[simp] theorem acknowledge_rxSeq (o : BitVec 4) (s : State) : (acknowledge o s).rxSeq = s.rxSeq :=
  by unfold acknowledge; split <;> rfl
@[simp] theorem acknowledge_rxCount (o : BitVec 4) (s : State) : (acknowledge o s).rxCount = s.rxCount :=
  by unfold acknowledge; split <;> rfl
@[simp] theorem acknowledge_packedN (o : BitVec 4) (s : State) : (acknowledge o s).packedN = s.packedN :=
  by unfold acknowledge; split <;> rfl
@[simp] theorem acknowledge_stats (o : BitVec 4) (s : State) : (acknowledge o s).stats = s.stats :=
  by unfold acknowledge; split <;> rfl
@[simp] theorem acknowledge_mem (o : BitVec 4) (s : State) : (acknowledge o s).mem = s.mem :=
  by unfold acknowledge; split <;> rfl
@[simp] theorem acknowledge_curOp (o : BitVec 4) (s : State) : (acknowledge o s).curOp = s.curOp :=
  by unfold acknowledge; split <;> rfl
@[simp] theorem acknowledge_curArg (o : BitVec 4) (s : State) : (acknowledge o s).curArg = s.curArg :=
  by unfold acknowledge; split <;> rfl
@[simp] theorem acknowledge_curCs (o : BitVec 4) (s : State) : (acknowledge o s).curCs = s.curCs :=
  by unfold acknowledge; split <;> rfl
@[simp] theorem acknowledge_treq (o : BitVec 4) (s : State) : (acknowledge o s).treq = s.treq :=
  by unfold acknowledge; split <;> rfl
@[simp] theorem acknowledge_reports (o : BitVec 4) (s : State) : (acknowledge o s).reports = s.reports :=
  by unfold acknowledge; split <;> rfl
@[simp] theorem acknowledge_params (o : BitVec 4) (s : State) : (acknowledge o s).params = s.params :=
  by unfold acknowledge; split <;> rfl
@[simp] theorem acknowledge_inputs (o : BitVec 4) (s : State) : (acknowledge o s).inputs = s.inputs :=
  by unfold acknowledge; split <;> rfl
@[simp] theorem acknowledge_hostResp (o : BitVec 4) (s : State) : (acknowledge o s).hostResp = s.hostResp :=
  by unfold acknowledge; split <;> rfl
@[simp] theorem acknowledge_draws (o : BitVec 4) (s : State) : (acknowledge o s).draws = s.draws :=
  by unfold acknowledge; split <;> rfl

end Sys2Proof.Machine
end

