-- ==== Sys2Proof/Laws/Step.lean ====
section
/-! SUPPORT. What a step can do, said once: `step_cases` is the inversion lemma every whole-machine proof cites. -/

namespace Sys2Proof.Machine

/-- The word a host access issues (R43). -/
theorem commandWord_eq_some {a : HostAccess} {c : Word} :
    a.commandWord = some c ↔ a = .write .word 0x0000000C c := by
  rcases a with ⟨size, addr⟩ | ⟨size, addr, v⟩
  · simp [HostAccess.commandWord]
  · cases size <;> simp [HostAccess.commandWord]

/-- The state a step gives, case by case. `refuse` is every rejected issue; `begin` and `beginSend` every accepted one;
the rest are the steps of the command in progress, the other host accesses, power-on reset and a turn that passes. -/
inductive StepOf (s : State) : State → Prop
  | pass (h : s.blockTurn = true) : StepOf s s.pop
  | powerOn (h : s.inputs.head? = some .powerOnReset) : StepOf s (powerOnReset s.pop)
  | bus (a : HostAccess) (h : s.inputs.head? = some (.host a)) (hc : a.commandWord = none) : StepOf s (hostAccess a s)
  | refuse (c w : Word) (code : ErrCode) (h : s.inputs.head? = some (cmdWrite c)) (hc : code ≠ .noError) :
      StepOf s (cmdError code w (s.answerHost .ack))
  | begin (c : Word) (i : Instr) (h : s.inputs.head? = some (cmdWrite c)) (hd : decode c = .command i)
      (hi : i ≠ .send) (he : issueError i s = .noError) : StepOf s (start i (s.answerHost .ack))
  | beginSend (c : Word) (h : s.inputs.head? = some (cmdWrite c)) (hd : decode c = .command .send)
      (he : issueError .send s = .noError) : StepOf s (clearSendCounters (start .send (s.answerHost .ack)))
  | nop (h : s.blockTurn = true) (hs : s.seqState = .exec) (hd : s.current = .command .nop) : StepOf s (complete s.pop)
  | pack (l : Nat) (h : s.blockTurn = true) (hs : s.seqState = .exec) (hd : s.current = .command (.pack l)) :
      StepOf s (complete (packAction l s.pop))
  | unpack (k : Nat) (h : s.blockTurn = true) (hs : s.seqState = .exec) (hd : s.current = .command (.unpack k)) :
      StepOf s (complete (unpackAction k s.pop))
  | analyze (l : Nat) (h : s.blockTurn = true) (hs : s.seqState = .exec) (hd : s.current = .command (.analyze l)) :
      StepOf s (complete (analyseAction l s.pop))
  | sendIssue (h : s.blockTurn = true) (hs : s.seqState = .sendIssue) (hd : s.current = .command .send) :
      StepOf s (sendIssueStep s.pop)
  | txOk (words : List Half) (h : s.blockTurn = true) (hb : s.seqState ≠ .idle) (hd : s.current = .command .send)
      (ht : s.treq = .transmit words) : StepOf s (advanceChunk (transmitOk s.pop))
  | txErr (words : List Half) (h : s.blockTurn = true) (hb : s.seqState ≠ .idle) (hd : s.current = .command .send)
      (ht : s.treq = .transmit words) : StepOf s (advanceChunk (transmitErr s.pop))
  | rxIssue (h : s.blockTurn = true) (hs : s.seqState = .rxIssue)
      (hd : s.current = .command .recv ∨ s.current = .command .recvAnalyze) : StepOf s (receiveRequest s.pop)
  | rxOk (n : Nat) (d : List Byte) (h : s.blockTurn = true) (hb : s.seqState ≠ .idle) (hd : s.current = .command .recv)
      (ht : s.treq = .receive n) (hn : d.length ≤ n) : StepOf s (complete (receiveOk d s.pop))
  | rxOkAnalyze (n : Nat) (d : List Byte) (h : s.blockTurn = true) (hb : s.seqState ≠ .idle)
      (hd : s.current = .command .recvAnalyze) (ht : s.treq = .receive n) (hn : d.length ≤ n) :
      StepOf s (toRxAnalyze (receiveOk d s.pop))
  | rxErr (n : Nat) (h : s.blockTurn = true) (hb : s.seqState ≠ .idle)
      (hd : s.current = .command .recv ∨ s.current = .command .recvAnalyze) (ht : s.treq = .receive n) :
      StepOf s (receiveErr s.pop)
  | rxAnalyze (h : s.blockTurn = true) (hs : s.seqState = .rxAnalyze) (hd : s.current = .command .recvAnalyze) :
      StepOf s (complete (analyseAction s.blockBytes.toNat s.pop))

/-- The issue of a command: refused with the error of R201, or accepted. -/
theorem issue_eq (i : Instr) (f : State → State) (s : State) :
    issue i f s = if issueError i s = .noError then f (s.answerHost .ack)
      else cmdError (issueError i s) (encode i) (s.answerHost .ack) := by
  unfold issue; split <;> simp_all

/-- While BUSY every issue is refused (R201). -/
theorem issueError_busy {i : Instr} {s : State} (h : s.seqState ≠ .idle) : issueError i s = .cmdBusy := by
  simp [issueError, State.busy, h]

/-- Whose step it is, in the block's own turns. -/
theorem commandStep_of_blockTurn {s : State} (h : s.blockTurn = true) :
    s.commandStep = .sequencer ∨ ∃ a, s.commandStep = .answer a := by
  unfold State.blockTurn at h; unfold State.commandStep
  split at h <;> simp_all

/-- A sequencer turn on which nothing is enabled passes. -/
theorem otherTurn_next {s t : State} (h : otherTurn s = .next t) : t = s.pop := by
  unfold otherTurn at h; split at h <;> simp_all

/-- An EXEC command's sequencer turn: its action in EXEC, else the turn passes. -/
theorem execStep_next {f : State → State} {s t : State} (h : execStep f s = .next t) :
    (s.seqState = .exec ∧ t = complete (f s.pop)) ∨ t = s.pop := by
  unfold execStep at h
  split at h
  · simp_all
  · exact .inr (otherTurn_next h)

/-- A block's own turn while BUSY is a step of the latched command. -/
theorem stepOf_exec {s t : State} {i : Instr} (h : s.blockTurn = true) (hb : s.seqState ≠ .idle)
    (hd : s.current = .command i) (he : exec i s = .next t) : StepOf s t := by
  have hstep := commandStep_of_blockTurn h
  cases i with
  | nop =>
    simp only [exec, execNop] at he
    rcases hstep with hc | ⟨a, hc⟩ <;> rw [hc] at he
    · rcases execStep_next he with ⟨hs, rfl⟩ | rfl
      · exact .nop h hs hd
      · exact .pass h
    · cases he; exact .pass h
  | pack l =>
    simp only [exec, execPack] at he
    rcases hstep with hc | ⟨a, hc⟩ <;> rw [hc] at he
    · rcases execStep_next he with ⟨hs, rfl⟩ | rfl
      · exact .pack l h hs hd
      · exact .pass h
    · cases he; exact .pass h
  | unpack k =>
    simp only [exec, execUnpack] at he
    rcases hstep with hc | ⟨a, hc⟩ <;> rw [hc] at he
    · rcases execStep_next he with ⟨hs, rfl⟩ | rfl
      · exact .unpack k h hs hd
      · exact .pass h
    · cases he; exact .pass h
  | analyze l =>
    simp only [exec, execAnalyze] at he
    rcases hstep with hc | ⟨a, hc⟩ <;> rw [hc] at he
    · rcases execStep_next he with ⟨hs, rfl⟩ | rfl
      · exact .analyze l h hs hd
      · exact .pass h
    · cases he; exact .pass h
  | send =>
    simp only [exec, execSend] at he
    rcases hstep with hc | ⟨a, hc⟩ <;> rw [hc] at he
    · simp only [sendTurn] at he
      split at he
      · cases he; exact .sendIssue h ‹_› hd
      · rw [otherTurn_next he]; exact .pass h
    · simp only [sendAnswer] at he
      split at he <;> cases he
      · exact .txOk _ h hb hd ‹_›
      · exact .txErr _ h hb hd ‹_›
      · exact .pass h
  | recv =>
    simp only [exec, execRecv] at he
    rcases hstep with hc | ⟨a, hc⟩ <;> rw [hc] at he
    · simp only [recvTurn] at he
      split at he
      · cases he; exact .rxIssue h ‹_› (.inl hd)
      · rw [otherTurn_next he]; exact .pass h
    · simp only [receiveAnswer] at he
      split at he
      · split at he <;> cases he
        · exact .rxOk _ _ h hb hd ‹_› ‹_›
        · exact .pass h
      · cases he; exact .rxErr _ h hb (.inl hd) ‹_›
      · cases he; exact .pass h
  | recvAnalyze =>
    simp only [exec, execRecvAnalyze] at he
    rcases hstep with hc | ⟨a, hc⟩ <;> rw [hc] at he
    · simp only [recvAnalyzeTurn] at he
      split at he
      · cases he; exact .rxIssue h ‹_› (.inr hd)
      · cases he; exact .rxAnalyze h ‹_› hd
      · rw [otherTurn_next he]; exact .pass h
    · simp only [receiveAnswer] at he
      split at he
      · split at he <;> cases he
        · exact .rxOkAnalyze _ _ h hb hd ‹_› ‹_›
        · exact .pass h
      · cases he; exact .rxErr _ h hb (.inr hd) ‹_›
      · cases he; exact .pass h

/-- A host write of a command's word is the issue of the command. -/
theorem stepOf_issue {s t : State} {c : Word} {i : Instr} (h : s.inputs.head? = some (cmdWrite c))
    (hd : decode c = .command i) (he : exec i s = .next t) : StepOf s t := by
  have hc : s.commandStep = .issue := by
    unfold State.commandStep
    cases hi : s.inputs with
    | nil => simp [hi] at h
    | cons x r => simp [hi, cmdWrite] at h; simp [h]
  have key : ∀ f : State → State, (issueError i s = .noError → StepOf s (f (s.answerHost .ack))) →
      StepOf s (issue i f s) := by
    intro f hf
    rw [issue_eq]
    split
    · exact hf ‹_›
    · exact .refuse c _ _ h ‹_›
  cases i with
  | nop =>
    simp only [exec, execNop, hc] at he; cases he
    exact key _ fun h0 => .begin c _ h hd (by simp) h0
  | pack l =>
    simp only [exec, execPack, hc] at he; cases he
    exact key _ fun h0 => .begin c _ h hd (by simp) h0
  | unpack k =>
    simp only [exec, execUnpack, hc] at he; cases he
    exact key _ fun h0 => .begin c _ h hd (by simp) h0
  | send =>
    simp only [exec, execSend, hc] at he; cases he
    exact key _ fun h0 => .beginSend c h hd h0
  | recv =>
    simp only [exec, execRecv, hc] at he; cases he
    exact key _ fun h0 => .begin c _ h hd (by simp) h0
  | recvAnalyze =>
    simp only [exec, execRecvAnalyze, hc] at he; cases he
    exact key _ fun h0 => .begin c _ h hd (by simp) h0
  | analyze l =>
    simp only [exec, execAnalyze, hc] at he; cases he
    exact key _ fun h0 => .begin c _ h hd (by simp) h0

/-- A step whose turn is the block's own. -/
theorem fetch_of_blockTurn {s : State} (h : s.blockTurn = true) :
    fetch s = if s.busy then s.commandTurn else .pass := by
  unfold State.blockTurn at h; unfold fetch
  split at h <;> simp_all

/-- A step whose turn is the host's. -/
theorem fetch_of_host {s : State} {a : HostAccess} (h : s.inputs.head? = some (.host a)) : fetch s = hostTurn a := by
  unfold fetch
  cases hi : s.inputs with
  | nil => simp [hi] at h
  | cons x r => simp [hi] at h; simp [h]

/-- A step on power-on reset. -/
theorem fetch_of_powerOn {s : State} (h : s.inputs.head? = some .powerOnReset) : fetch s = .powerOn := by
  unfold fetch
  cases hi : s.inputs with
  | nil => simp [hi] at h
  | cons x r => simp [hi] at h; simp [h]

/-- Whose turn it can be. -/
theorem turn_cases (s : State) :
    s.blockTurn = true ∨ s.inputs.head? = some .powerOnReset ∨ ∃ a, s.inputs.head? = some (.host a) := by
  unfold State.blockTurn
  cases hi : s.inputs with
  | nil => simp
  | cons x r => cases x <;> simp

/-- What a step can do. -/
theorem step_cases {s t : State} (h : step s = .next t) : StepOf s t := by
  unfold step at h
  rcases turn_cases s with hb | hp | ⟨a, ha⟩
  · rw [fetch_of_blockTurn hb] at h
    by_cases hi : s.busy = true
    · rw [if_pos hi] at h
      unfold State.commandTurn at h
      cases hd : s.current with
      | illegal e => simp [hd] at h
      | command i =>
        simp only [hd] at h
        exact stepOf_exec hb (by simpa [State.busy] using hi) hd h
    · rw [if_neg hi] at h; cases h; exact .pass hb
  · rw [fetch_of_powerOn hp] at h; cases h; exact .powerOn hp
  · rw [fetch_of_host ha] at h
    unfold hostTurn at h
    cases hc : a.commandWord with
    | none => simp only [hc] at h; cases h; exact .bus a ha hc
    | some c =>
      have hw : s.inputs.head? = some (cmdWrite c) := by rw [ha, commandWord_eq_some.1 hc]; rfl
      cases hd : decode c with
      | illegal e =>
        simp only [hc, hd] at h; cases h
        exact .refuse c c _ hw (by split <;> simp)
      | command i => simp only [hc, hd] at h; exact stepOf_issue hw hd h

end Sys2Proof.Machine
end

