-- ==== Sys2Proof/Laws/Ops.lean ====
section
/-! SUPPORT. What the shared operations do, said once: the raising of an error, the issue of a command, the host
accesses that issue none, the byte order of the bus. -/

namespace Sys2Proof.Machine

/-- Raising an error on a host access that is acknowledged (R402), as one record. -/
theorem cmdError_answerHost (code : ErrCode) (info : Word) (s : State) :
    cmdError code info (s.answerHost .ack) = raised code info s := by
  unfold cmdError raised State.answerHost
  split <;> simp_all [irqErr]

/-- Every command's issue, whatever the command: refused with its error, or accepted. -/
theorem exec_issue (i : Instr) (s : State) (hc : s.commandStep = .issue) :
    exec i s = .next (if issueError i s = .noError then
        (if i = .send then clearSendCounters (start i (s.answerHost .ack)) else start i (s.answerHost .ack))
      else raised (issueError i s) (encode i) s) := by
  cases i <;> simp [exec, execNop, execPack, execUnpack, execSend, execRecv, execRecvAnalyze, execAnalyze, hc, issue_eq,
    cmdError_answerHost]

/-- A host write to CMD is an issue. -/
theorem commandStep_of_cmdWrite {s : State} {c : Word} (h : s.inputs.head? = some (cmdWrite c)) :
    s.commandStep = .issue := by
  unfold State.commandStep
  cases hi : s.inputs with
  | nil => simp [hi] at h
  | cons x r => simp [hi, cmdWrite] at h; simp [h]

/-- While BUSY a host access that issues no command changes nothing the running command uses. -/
theorem hostAccess_frame_busy {s : State} {a : HostAccess} (hb : s.seqState ≠ .idle) :
    (hostAccess a s).seqState = s.seqState ∧ (hostAccess a s).curOp = s.curOp ∧ (hostAccess a s).curArg = s.curArg ∧
      (hostAccess a s).curCs = s.curCs ∧ (hostAccess a s).treq = s.treq ∧ (hostAccess a s).capacity = s.capacity ∧
      (hostAccess a s).blockBytes = s.blockBytes ∧ (hostAccess a s).payloadLen = s.payloadLen ∧
      (hostAccess a s).params = s.params ∧ (hostAccess a s).pos = s.pos ∧ (hostAccess a s).bytesSent = s.bytesSent ∧
      (hostAccess a s).chunkIndex = s.chunkIndex ∧ (hostAccess a s).txFails = s.txFails ∧
      (hostAccess a s).stats = s.stats ∧ (hostAccess a s).statsValid = s.statsValid ∧
      (hostAccess a s).mem = s.mem := by
  have hb' : ∀ r, (s.answerHost r).busy = true := by intro r; simp [State.busy, hb]
  cases a with
  | read size addr => simp only [hostAccess, hostRead]; split <;> simp
  | write size addr v =>
    simp only [hostAccess, hostWrite]
    split
    · rename_i r _
      cases r <;> simp only [writeReg, writeCtrl, unlessBusy, hb', if_true] <;> (try split) <;> simp
    · simp only [unlessBusy, hb', if_true]; simp
    · simp

/-- While IDLE a host access that issues no command leaves the block idle. -/
theorem hostAccess_idle {s : State} {a : HostAccess} (hi : s.seqState = .idle) (ht : s.treq = .none) :
    (hostAccess a s).seqState = .idle ∧ (hostAccess a s).treq = .none := by
  have hb' : ∀ r, (s.answerHost r).busy = false := by intro r; simp [State.busy, hi]
  cases a with
  | read size addr => simp only [hostAccess, hostRead]; split <;> simp [*]
  | write size addr v =>
    simp only [hostAccess, hostWrite]
    split
    · rename_i r _
      cases r <;> simp only [writeReg, writeCtrl, unlessBusy, hb', setConfig] <;> (try split) <;>
        simp [hi, ht, softReset, State.powerOn]
    · simp only [unlessBusy, hb']; simp [writeWindow, hi, ht]
    · simp [hi, ht]

/-- The register block: the registers stand at every fourth offset below 0x094, and nowhere else (R101, R75). -/
theorem reg_at_offset (r : Reg) : Reg.at r.offset = some r := by cases r <;> rfl

/-- A word access to a register's offset is an access to that register (R101, R110). -/
theorem busTarget_offset (p : Params) (r : Reg) : busTarget p .word (BitVec.ofNat 32 r.offset) = some (.reg r) := by
  cases r <;> rfl

/-- A step on a host access that issues no command is that access. -/
theorem step_hostAccess {s : State} {a : HostAccess} (h : s.inputs.head? = some (.host a))
    (hc : a.commandWord = none) : step s = .next (hostAccess a s) := by
  unfold step; rw [fetch_of_host h]; simp [hostTurn, hc]

/-- A write takes `n` bytes. -/
@[simp] theorem length_toBytes : ∀ n v, (toBytes n v).length = n
  | 0, _ => rfl
  | n + 1, v => by simp [toBytes, length_toBytes n]

/-- The `j`-th byte of a written value (R106). -/
theorem getElem_toBytes : ∀ (n v j : Nat) (h : j < (toBytes n v).length),
    (toBytes n v)[j] = BitVec.ofNat 8 (v / 256 ^ j)
  | n + 1, v, 0, _ => by simp [toBytes]
  | n + 1, v, j + 1, h => by
    simp only [toBytes, List.getElem_cons_succ]
    rw [getElem_toBytes n (v / 256) j, Nat.div_div_eq_div_mul, Nat.pow_succ, Nat.mul_comm]
  | 0, _, _, h => absurd h (by simp)

/-- Bytes read back give a value below `256 ^ n`. -/
theorem ofBytes_lt : ∀ b : List Byte, ofBytes b < 256 ^ b.length
  | [] => by simp [ofBytes]
  | x :: r => by
    have h := ofBytes_lt r
    have hx := x.isLt
    simp only [ofBytes, List.length_cons, Nat.pow_succ]
    omega

/-- The bus checks of a window access: every byte of it is populated (R101). -/
theorem populated_of_inWindow {p : Params} {a n : Nat} (h : inWindow p a n = true) {x : Nat} (h1 : a ≤ x)
    (h2 : x < a + n) : PopulatedByte p x := by
  simp only [inWindow, Bool.or_eq_true, Bool.and_eq_true, decide_eq_true_eq] at h
  unfold PopulatedByte; unfold scratchBase sampleBase payloadBase at h; omega

end Sys2Proof.Machine
end

