-- ==== Sys2Proof/Laws/PerInstr.lean ====
section
/-! SUPPORT. Per command: what its encoded word carries (30_encoding.md R150, R156). -/

namespace Sys2Proof.Laws.EncodedFields

open Sys2Proof

/-- The encoded word of a well-formed command carries its opcode in OP and its whole argument in ARG. -/
def Statement (i : Instr) : Prop := i.WellFormed → opField (encode i) = i.op ∧ (argField (encode i)).toNat = i.arg

theorem of_wellFormed (i : Instr) : Statement i := by
  intro h
  refine ⟨opField_encode i, ?_⟩
  rw [argField_encode, BitVec.toNat_ofNat, Nat.mod_eq_of_lt h]

theorem nop : Statement .nop := of_wellFormed _

theorem pack (l : Nat) : Statement (.pack l) := of_wellFormed _

theorem unpack (k : Nat) : Statement (.unpack k) := of_wellFormed _

theorem send : Statement .send := of_wellFormed _

theorem recv : Statement .recv := of_wellFormed _

theorem recvAnalyze : Statement .recvAnalyze := of_wellFormed _

theorem analyze (l : Nat) : Statement (.analyze l) := of_wellFormed _

end Sys2Proof.Laws.EncodedFields
end

