-- ==== Sys2Proof/Tests/Slice0.lean ====
section
/-! SUPPORT. Tests: the well-formedness smoke, words written out from 30_encoding.md, single steps against the vectors of
95_test_vectors.md, and for each statement with hypotheses a concrete state and operands that meet them together. -/

namespace Sys2Proof.Tests

open Sys2Proof Sys2Proof.Machine

/-! ### Well-formedness (R156: an argument above 16,777,215 is no encoding) -/

theorem test_illFormed_pack : ¬ (Instr.pack 16777216).WellFormed := by decide

theorem test_illFormed_unpack : ¬ (Instr.unpack 16777216).WellFormed := by decide

theorem test_illFormed_analyze : ¬ (Instr.analyze 16777216).WellFormed := by decide

theorem test_wellFormed_pack : (Instr.pack 16777215).WellFormed := by decide

/-! ### Decoding (95_test_vectors.md 2.1, and the bits of R150, R153) -/

theorem test_decode_nop : decode 0b00000000000000000000000000000000#32 = .command .nop := by decide

theorem test_decode_pack : decode 0b11111111111111111111111100000001#32 = .command (.pack 16777215) := by decide

theorem test_decode_unpack : decode 0b00000000000000000000001100000010#32 = .command (.unpack 3) := by decide

theorem test_decode_send : decode 0b00000000000000000000000000010000#32 = .command .send := by decide

theorem test_decode_recv : decode 0b00000000000000000000000000100000#32 = .command .recv := by decide

theorem test_decode_recvAnalyze : decode 0b00000000000000000000000000100001#32 = .command .recvAnalyze := by decide

theorem test_decode_analyze : decode 0b00000000000000000000100000110000#32 = .command (.analyze 8) := by decide

theorem test_decode_illegal : decode 0x00000003 = .illegal .unknownOpcode ∧ decode 0x00000022 = .illegal .unknownOpcode ∧
    decode 0x00000031 = .illegal .unknownOpcode ∧ decode 0x000000FF = .illegal .unknownOpcode ∧
    decode 0x00000100 = .illegal .argNotZero ∧ decode 0x80000010 = .illegal .argNotZero := by decide

/-! ### Small states -/

/-- An idle block after power-on reset, with the given turns to come. -/
def idle (turns : List Input) : State := { State.reset with inputs := turns }

/-- A block that executes command `i`, in the given sequencer state, with the given request and turns to come. -/
def running (i : Instr) (q : SeqState) (r : Treq) (turns : List Input) : State :=
  { State.reset with seqState := q, curOp := i.op, curArg := BitVec.ofNat 24 i.arg, treq := r, inputs := turns }

/-- The state with consecutive bytes written at a bus address. -/
def withBytes (a : Nat) (bytes : List Byte) (s : State) : State := { s with mem := Memory.writeList s.mem a bytes }

/-- The step answers a next state that passes the check. -/
def nextPasses (o : Host.Outcome State Fault Refusal) (p : State → Bool) : Bool :=
  match o with
  | .next t => p t
  | .fault _ | .refused _ => false

/-! ### Single steps -/

/-- 95_test_vectors.md E6: NOP is accepted with CAPACITY 5. -/
theorem test_nop_needs_no_capacity :
    nextPasses (step { idle [cmdWrite 0x00000000] with capacity := 5 })
      (fun t => t.seqState == .exec && t.errCode == .noError) = true := by decide

/-- I1: NOP's EXEC step sets DONE. -/
theorem test_nop_completes :
    nextPasses (step (running .nop .exec .none [])) (fun t => t.seqState == .idle && t.irqStatus == 1) = true := by decide

/-- V9: PACK 9 at CAPACITY 8. -/
theorem test_pack_bad_arg :
    nextPasses (step (idle [cmdWrite 0x00000901]))
      (fun t => t.errCode == .badArg && t.errCmd == 0x00000901 && t.mem == []) = true := by decide

/-- V4: PACK 5, big-endian; the pad is the low byte. -/
theorem test_pack_big_endian_odd :
    nextPasses (step (withBytes 0x00010000 [0x01, 0x02, 0x03, 0x04, 0x05]
      { running (.pack 5) .exec .none [] with byteOrder := .big }))
      (fun t => t.readSamples 3 == [0x0102, 0x0304, 0x0500] && t.packedN == 3) = true := by decide

/-- V11: UNPACK 3, big-endian. -/
theorem test_unpack_big_endian :
    nextPasses (step (withBytes 0x00020000 [0x02, 0x01, 0x04, 0x03, 0x00, 0x05]
      { running (.unpack 3) .exec .none [] with byteOrder := .big }))
      (fun t => t.readScratch 6 == [0x01, 0x02, 0x03, 0x04, 0x05, 0x00]) = true := by decide

/-- V15: UNPACK 5 at CAPACITY 8. -/
theorem test_unpack_bad_arg :
    nextPasses (step (idle [cmdWrite 0x00000502])) (fun t => t.errCode == .badArg && t.errCmd == 0x00000502) = true := by
  decide

/-- The payload and cursor of S7 before its second chunk. -/
def secondChunk : State :=
  withBytes 0x01000000 [0x01, 0x02, 0x03, 0x04, 0x05]
    { running .send .sendIssue .none [] with
      capacity := 4, payloadLen := 5, pos := 4, bytesSent := 4, chunkIndex := 1, curCs := 4 }

/-- S7: the second chunk, padded to `05 00`, is requested as the word 0x0005. -/
theorem test_send_pads_the_last_chunk :
    nextPasses (step secondChunk)
      (fun t => t.treq == .transmit [0x0005] && t.readScratch 2 == [0x05, 0x00] && t.packedN == 1) = true := by decide

/-- T3: the second of three answers fails; the cursor moves on. -/
theorem test_send_failure_advances :
    nextPasses (step { running .send .txWait (.transmit [0x0403]) [.transport .txErr] with
      capacity := 2, payloadLen := 5, pos := 2, bytesSent := 2, chunkIndex := 1, curCs := 2 })
      (fun t => t.pos == 4 && t.bytesSent == 2 && t.txFails == 1 && t.irqStatus == 4 &&
        t.reports.map Report.frame == [[2, 1, 0, 0, 0, 0, 0, 0]]) = true := by decide

/-- X1: RECV of four bytes. -/
theorem test_recv_ok :
    nextPasses (step { running .recv .rxWait (.receive 4) [.transport (.rxOk [0xE9, 0x03, 0x18, 0xFC])] with
      blockBytes := 4 })
      (fun t => t.readScratch 4 == [0xE9, 0x03, 0x18, 0xFC] && t.rxCount == 4 && t.rxSeq == 1 && t.seqState == .idle &&
        t.reports.map Report.frame == [[3, 0, 4, 0, 0, 0, 0, 0]]) = true := by decide

/-- I8: RECV_ANALYZE with RxErr sets RXF and DONE in one step and analyses nothing. -/
theorem test_recvAnalyze_failure :
    nextPasses (step (running .recvAnalyze .rxWait (.receive 4) [.transport .rxErr]))
      (fun t => t.irqStatus == 9 && t.statsValid == false && t.seqState == .idle) = true := by decide

/-- X3: the RX_ANALYZE step, by the words of its frame. -/
theorem test_recvAnalyze_frame :
    nextPasses (step (withBytes 0x00010000 [0xE9, 0x03, 0x18, 0xFC]
      { running .recvAnalyze .rxAnalyze .none [] with blockBytes := 4 }))
      (fun t => t.reports.map Report.frame == [[0x25, 2, 2, 2001, 1001, 0xFFFFFC18, 1000, 0x3F800000]]) = true := by decide

/-- S6: the most negative sample. -/
theorem test_analyze_most_negative :
    nextPasses (step (withBytes 0x00010000 [0x00, 0x80, 0x00, 0x80, 0x00, 0x80] (running (.analyze 6) .exec .none [])))
      (fun t => t.stats.sumAbs == 98304 && t.stats.maxAbs == 32768 && t.stats.minRaw == 0xFFFF8000 &&
        t.stats.avgAbs == 32768 && t.stats.strength == .strong) = true := by decide

/-- A9: 20, 0, 0; the ratio is 1/3 rounded to nearest. -/
theorem test_analyze_third :
    nextPasses (step (withBytes 0x00010000 [20, 0, 0, 0, 0, 0] (running (.analyze 6) .exec .none [])))
      (fun t => t.stats.activeCount == 1 && t.stats.avgAbs == 6 && t.stats.activeRatio == 0x3EAAAAAB &&
        t.stats.strength == .none) = true := by decide

/-- E2: the second error only sets ERR_OVF. -/
theorem test_second_error_overflows :
    nextPasses (step { idle [cmdWrite 0x00000110] with errCode := .illegalCmd, errCmd := 3, irqStatus := 2 })
      (fun t => readReg t .err == 0x00000101 && t.errCmd == 3) = true := by decide

/-- R173: the spec's frame examples. -/
theorem test_frame_examples : (Report.chunk .txOk 0 4).frame = [0x00000001, 0, 4, 0, 0, 0, 0, 0] ∧
    (Report.chunk .txErr 1 0).frame = [0x00000002, 1, 0, 0, 0, 0, 0, 0] ∧
    (Report.stats AudioStats.empty).frame = [0x00000005, 0, 0, 0, 0, 0x00007FFF, 0, 0x00000000] := by decide

/-- B6, B8, B12: a word read of scratch, a misaligned one, and a write past the payload memory. -/
theorem test_bus_accesses :
    nextPasses (step (withBytes 0x00010000 [0x11, 0x22, 0x33, 0x44] (idle [.host (.read .word 0x00010000)])))
      (fun t => t.hostResp == .value 0x44332211) = true ∧
    nextPasses (step (idle [.host (.read .word 0x00010002)])) (fun t => t.hostResp == .busError) = true ∧
    nextPasses (step (idle [.host (.write .byte 0x01000010 0xAB)]))
      (fun t => t.hostResp == .busError && t.mem == [] && t.errCode == .noError) = true := by decide

/-- B1 and B5: ID reads its constant, the write-only CMD reads 0. -/
theorem test_register_reads :
    nextPasses (step (idle [.host (.read .word 0x00000000)])) (fun t => t.hostResp == .value 0x41535031) = true ∧
    nextPasses (step (idle [.host (.read .word 0x0000000C)])) (fun t => t.hostResp == .value 0) = true := by decide

/-! ### The hypotheses of each statement are met -/

theorem witness_DecodeOfEncodeIsTheCommand : (Instr.pack 16777215).WellFormed ∧ Instr.nop.WellFormed := by decide

theorem witness_EncodeOfDecodedIsTheWord : decode 0xFFFFFF01 = .command (.pack 16777215) := by decide

theorem witness_OpcodeMapByMatchAndMask : ∀ r ∈ opTable, r ∈ opTable ∧ r.value &&& r.mask = r.value := by decide

theorem witness_IllegalWordsExecuteNothing : decode 0x00000003 = .illegal .unknownOpcode ∧
    decode 0x00000110 = .illegal .argNotZero ∧ (idle [cmdWrite 0x00000003]).seqState = .idle ∧
    (idle [cmdWrite 0x00000003]).inputs.head? = some (cmdWrite 0x00000003) := by decide

theorem witness_StepRunsTheIssuedCommand : (idle [cmdWrite 0x00000501]).inputs.head? = some (cmdWrite 0x00000501) ∧
    decode 0x00000501 = .command (.pack 5) := by decide

theorem witness_StepRunsTheLatchedCommand : (running (.pack 5) .exec .none []).blockTurn = true ∧
    (running (.pack 5) .exec .none []).seqState ≠ .idle ∧
    decode ((running (.pack 5) .exec .none []).curArg ++ (running (.pack 5) .exec .none []).curOp) =
      .command (.pack 5) := by decide

theorem witness_FetchWordIsRunNext : decodeTableWord 32 0x00000501 = some (.pack 5) ∧
    decodeTableWord 8 0x30 = some (.analyze 0) := by decide

/-- The turns to come are no part of soundness. -/
theorem sound_of_turns {s : State} (h : s.Inv) (turns : List Input) : State.Inv { s with inputs := turns } := h

/-- An idle block after reset is sound, whatever its turns. -/
theorem idle_sound (turns : List Input) : (idle turns).Inv :=
  sound_of_turns (s := idle []) ⟨by decide, ⟨by decide, by decide⟩, rfl, by decide, by decide⟩ turns

theorem exec_ok : (running (.pack 5) .exec .none []).ExecOk := by
  have h : (running (.pack 5) .exec .none []).current = .command (.pack 5) := by decide
  unfold State.ExecOk
  rw [h]
  show State.capOk _ ∧ _
  decide

/-- A block about to pack is sound. -/
theorem exec_sound (turns : List Input) : (running (.pack 5) .exec .none turns).Inv :=
  sound_of_turns (s := running (.pack 5) .exec .none [])
    ⟨by decide, ⟨by decide, by decide⟩, ⟨rfl, exec_ok⟩, by decide, by decide⟩ turns

/-- A block that waits for a receive is sound. -/
theorem rxWait_sound (turns : List Input) : (running .recv .rxWait (.receive 8) turns).Inv :=
  sound_of_turns (s := running .recv .rxWait (.receive 8) [])
    ⟨by decide, ⟨by decide, by decide⟩, ⟨by decide, by decide, by decide⟩, by decide, by decide⟩ turns

/-- A SEND of five bytes that waits for its first answer. -/
def firstAnswer (turns : List Input) : State :=
  { running .send .txWait (.transmit [0x0201, 0x0403]) turns with capacity := 4, payloadLen := 5, curCs := 4 }

/-- It is sound. -/
theorem txWait_sound (turns : List Input) : (firstAnswer turns).Inv :=
  sound_of_turns (s := firstAnswer [])
    ⟨by decide, ⟨by decide, by decide⟩, ⟨rfl, by decide, by decide, by decide, by decide, by decide⟩, by decide, by decide⟩
    turns

theorem witness_OnlyEnabledAgentsStep_idle : (idle []).Inv ∧ (idle []).inputs = [] ∧
    (idle []).seqState ∈ [SeqState.idle, .txWait, .rxWait] := ⟨idle_sound _, by decide⟩

theorem witness_OnlyEnabledAgentsStep_wait : (firstAnswer [.sequencer]).Inv ∧
    (firstAnswer [.sequencer]).inputs.head? = some .sequencer ∧
    (firstAnswer [.sequencer]).seqState ∈ [SeqState.idle, .txWait, .rxWait] := ⟨txWait_sound _, by decide⟩

theorem witness_OnlyEnabledAgentsStep_transport : (idle [.transport .txOk]).Inv ∧
    (idle [.transport .txOk]).inputs.head? = some (.transport .txOk) ∧
    (idle [.transport .txOk]).seqState ∉ [SeqState.txWait, .rxWait] := ⟨idle_sound _, by decide⟩

theorem witness_OnlyEnabledAgentsStep_enabled : (running (.pack 5) .exec .none []).Inv ∧
    (running (.pack 5) .exec .none []).inputs = [] ∧
    (running (.pack 5) .exec .none []).seqState ∉ [SeqState.idle, .txWait, .rxWait] := ⟨exec_sound _, by decide⟩

theorem witness_OnlyEnabledAgentsStep_answer : (firstAnswer [.transport .txErr]).Inv ∧
    (firstAnswer [.transport .txErr]).inputs.head? = some (.transport .txErr) ∧
    (firstAnswer [.transport .txErr]).seqState = .txWait := ⟨txWait_sound _, by decide⟩

theorem witness_OnlyEnabledAgentsStep_received : (running .recv .rxWait (.receive 8) [.transport (.rxOk [1])]).Inv ∧
    (running .recv .rxWait (.receive 8) [.transport (.rxOk [1])]).inputs.head? = some (.transport (.rxOk [1])) ∧
    (running .recv .rxWait (.receive 8) [.transport (.rxOk [1])]).seqState = .rxWait ∧
    ([1] : List Byte).length ≤ (running .recv .rxWait (.receive 8) []).blockBytes.toNat := ⟨rxWait_sound _, by decide⟩

theorem witness_OnlyEnabledAgentsStep_host : (idle [.host (.read .word 0)]).Inv ∧
    (idle [.host (.read .word 0)]).inputs.head? = some (.host (.read .word 0)) := ⟨idle_sound _, by decide⟩

theorem witness_IssueFollowsTheCheckOrder :
    (idle [cmdWrite 0x00000901]).inputs.head? = some (cmdWrite 0x00000901) ∧
    issueCheck 0x00000901 (idle [cmdWrite 0x00000901]) = .badArg ∧
    issueCheck 0x00000801 (idle [cmdWrite 0x00000801]) = .noError := by decide

theorem witness_AcceptedIssueStartsTheCommand : (Instr.unpack 4).WellFormed ∧
    (idle [cmdWrite 0x00000402]).commandStep = .issue ∧ (idle [cmdWrite 0x00000402]).seqState = .idle ∧
    (idle [cmdWrite 0x00000402]).capOk ∧
    (idle [cmdWrite 0x00000402]).payloadLen.toNat ≤ (idle [cmdWrite 0x00000402]).params.payloadBytes ∧
    (idle [cmdWrite 0x00000402]).blockBytes.toNat ≤ (idle [cmdWrite 0x00000402]).capacity.toNat ∧
    8 ≤ (idle [cmdWrite 0x00000402]).capacity.toNat ∧ 4 ≤ (idle [cmdWrite 0x00000402]).capacity.toNat / 2 := by decide

theorem witness_CommandWhileBusyIsRefused :
    (running .recv .rxWait (.receive 8) [cmdWrite 0x00000000]).commandStep = .issue ∧
    (running .recv .rxWait (.receive 8) [cmdWrite 0x00000000]).seqState ≠ .idle := by decide

theorem witness_NopOnlyCompletes : (running .nop .exec .none []).commandStep = .sequencer ∧
    (running .nop .exec .none []).seqState = .exec := by decide

theorem witness_PackAndUnpackElements : 2 < (([1, 2, 3, 4, 5] : List Byte).length + 1) / 2 ∧
    1 < ([1, 2] : List Half).length := by decide

theorem witness_UnpackOfPackRoundTrip : ([1, 2, 3] : List Byte).length % 2 = 1 := by decide

theorem witness_PackWritesPaddedSamples : (running (.pack 5) .exec .none []).commandStep = .sequencer ∧
    (running (.pack 5) .exec .none []).seqState = .exec ∧ (2 : Nat) < (5 + 1) / 2 := by decide

theorem witness_UnpackWritesBytePairs : (running (.unpack 3) .exec .none []).commandStep = .sequencer ∧
    (running (.unpack 3) .exec .none []).seqState = .exec := by decide

theorem witness_UnpackAfterPackRestoresScratch : (running (.pack 3) .exec .none []).commandStep = .sequencer ∧
    (running (.pack 3) .exec .none []).seqState = .exec ∧ 3 ≤ 65536 ∧ 3 % 2 = 1 ∧ 3 + 3 % 2 ≤ 65535 := by decide

theorem witness_SendIssuePreparesChunkOrCompletes_end : (running .send .sendIssue .none []).commandStep = .sequencer ∧
    (running .send .sendIssue .none []).seqState = .sendIssue ∧
    (running .send .sendIssue .none []).pos = (running .send .sendIssue .none []).payloadLen := by decide

theorem witness_SendIssuePreparesChunkOrCompletes_chunk : secondChunk.commandStep = .sequencer ∧
    secondChunk.seqState = .sendIssue ∧ secondChunk.params.Legal ∧ secondChunk.capOk ∧
    secondChunk.payloadLen.toNat ≤ secondChunk.params.payloadBytes ∧
    secondChunk.pos.toNat < secondChunk.payloadLen.toNat ∧
    1 = min (secondChunk.payloadLen.toNat - secondChunk.pos.toNat) secondChunk.capacity.toNat ∧
    [0x0005#16] = pack secondChunk.byteOrder ((List.range 1).map fun i => secondChunk.payloadAt (secondChunk.pos.toNat + i))
    := by decide

theorem witness_TransmitAnswersAdvanceTheCursor : (firstAnswer [.transport .txOk]).treq = .transmit [0x0201, 0x0403] ∧
    (firstAnswer [.transport .txOk]).commandStep = .answer .txOk ∧
    (firstAnswer [.transport .txErr]).treq = .transmit [0x0201, 0x0403] ∧
    (firstAnswer [.transport .txErr]).commandStep = .answer .txErr := by decide

/-- A SEND of `n` bytes at CAPACITY 4 about to be issued, with one answer per chunk to come. -/
def sendCycle (n : Word) (oks : List Bool) : State :=
  { idle (cmdWrite (encode .send) :: sendTurns oks []) with capacity := 4, payloadLen := n }

theorem witness_SendCycleMakesCeilManyCalls : (sendCycle 5 [true, false]).params.Legal ∧
    (sendCycle 5 [true, false]).seqState = .idle ∧ (sendCycle 5 [true, false]).treq = .none ∧
    (sendCycle 5 [true, false]).capOk ∧
    (sendCycle 5 [true, false]).payloadLen.toNat ≤ (sendCycle 5 [true, false]).params.payloadBytes ∧
    [true, false].length =
      ((sendCycle 5 [true, false]).payloadLen.toNat + (sendCycle 5 [true, false]).capacity.toNat - 1) /
        (sendCycle 5 [true, false]).capacity.toNat ∧
    (sendCycle 5 [true, false]).inputs = cmdWrite (encode .send) :: sendTurns [true, false] [] := by decide

theorem witness_SendCycleMakesCeilManyCalls_empty : (sendCycle 0 []).capOk ∧
    ([] : List Bool).length =
      ((sendCycle 0 []).payloadLen.toNat + (sendCycle 0 []).capacity.toNat - 1) / (sendCycle 0 []).capacity.toNat := by
  decide

theorem witness_SendCycleMakesCeilManyCalls_allFail : true ∉ [false, false] ∧ false ∉ [true, true] ∧
    [false, false].length =
      ((sendCycle 5 [false, false]).payloadLen.toNat + (sendCycle 5 [false, false]).capacity.toNat - 1) /
        (sendCycle 5 [false, false]).capacity.toNat := by decide

theorem witness_ReceiveIsRequestedOnce : (running .recv .rxIssue .none []).commandStep = .sequencer ∧
    (running .recv .rxIssue .none []).seqState = .rxIssue ∧
    (running .recvAnalyze .rxIssue .none []).commandStep = .sequencer ∧
    (running .recvAnalyze .rxIssue .none []).seqState = .rxIssue := by decide

theorem witness_ReceivedBytesReachScratch :
    (running .recv .rxWait (.receive 2) [.transport (.rxOk [1, 2])]).commandStep = .answer (.rxOk [1, 2]) ∧
    (running .recv .rxWait (.receive 2) [.transport (.rxOk [1, 2])]).treq = .receive 2 ∧
    ([1, 2] : List Byte).length ≤ 2 ∧ (running .recvAnalyze .rxWait (.receive 0) []).treq = .receive 0 ∧
    ([] : List Byte).length ≤ 0 := by decide

theorem witness_FailedReceiveCompletesWithoutAnalysis :
    (running .recvAnalyze .rxWait (.receive 8) [.transport .rxErr]).commandStep = .answer .rxErr ∧
    (running .recvAnalyze .rxWait (.receive 8) [.transport .rxErr]).treq = .receive 8 := by decide

/-- An answer of one byte too many. -/
theorem witness_NonAnswersAreNoStep :
    (running .recv .rxWait (.receive 8) [.transport (.rxOk [1, 2, 3, 4, 5, 6, 7, 8, 9])]).Inv ∧
    (running .recv .rxWait (.receive 8) []).treq = .receive 8 ∧
    8 < ([1, 2, 3, 4, 5, 6, 7, 8, 9] : List Byte).length := ⟨rxWait_sound _, by decide⟩

/-- A receive answer to a transmit. -/
theorem witness_NonAnswersAreNoStep_kind : (firstAnswer [.transport .rxErr]).Inv ∧
    (firstAnswer [.transport .rxErr]).inputs.head? = some (.transport .rxErr) ∧ Answer.rxErr ≠ .txOk ∧
    Answer.rxErr ≠ .txErr := ⟨txWait_sound _, by decide⟩

/-- A block about to analyse four bytes, 1001 and -1000. -/
def analysing (l : Nat) : State :=
  withBytes 0x00010000 [0xE9, 0x03, 0x18, 0xFC] (running (.analyze l) .exec .none [])

theorem witness_AnalyzeCommitsTheStatistics : (analysing 4).commandStep = .sequencer ∧ (analysing 4).seqState = .exec ∧
    4 ≤ 65536 ∧ [1001, -1000] = (List.range (4 / 2)).map
      (fun k => (pack2 (analysing 4).byteOrder ((analysing 4).scratchAt (2 * k)) ((analysing 4).scratchAt (2 * k + 1))).toInt)
    := by decide

/-- The clause for a block without a sample. -/
theorem witness_AnalyzeCommitsTheStatistics_empty : (analysing 1).commandStep = .sequencer ∧
    (analysing 1).seqState = .exec ∧ ([] : List Int) = (List.range (1 / 2)).map
      (fun k => (pack2 (analysing 1).byteOrder ((analysing 1).scratchAt (2 * k)) ((analysing 1).scratchAt (2 * k + 1))).toInt)
    := by decide

theorem witness_CommittedClassAndRatio : (analysing 4).commandStep = .sequencer ∧ (analysing 4).seqState = .exec := by
  decide

theorem witness_RatioIsTheNearestBinary32 : 0 < 1 ∧ 1 ≤ 3 ∧ 3 ≤ 32768 ∧ (0x3EAAAAAB#32).toNat < 0x7F800000 := by decide

theorem witness_RxAnalyzeAnalysesTheBlock : (running .recvAnalyze .rxAnalyze .none []).commandStep = .sequencer ∧
    (running .recvAnalyze .rxAnalyze .none []).seqState = .rxAnalyze := by decide

theorem witness_EmptyBlockStatistics : (analysing 1).commandStep = .sequencer ∧ (analysing 1).seqState = .exec ∧ 1 ≤ 1 := by
  decide

theorem witness_ClassificationBoundaries_strong :
    samplesOf .little [0xE9, 0x03] = List.replicate 1 1001 ∧ (1001 : Int).natAbs = 1001 := by decide

theorem witness_ClassificationBoundaries_moderate : samplesOf .little [0xE8, 0x03] = List.replicate 1 1000 ∧
    samplesOf .little [0x65, 0x00] = List.replicate 1 101 := by decide

theorem witness_ClassificationBoundaries_hundred : samplesOf .little [0x64, 0x00] = List.replicate 1 100 ∧
    (99 : Nat) < 100 ∧ (100 : Nat) ≤ 100 := by decide

theorem witness_ClassificationBoundaries_zero : samplesOf .little [0x00, 0x00] = List.replicate 1 0 := by decide

theorem witness_MostNegativeSampleDoesNotOverflow : (samplesOf .little [0x00, 0x80]).length ≤ 32768 ∧
    -32768 ∈ samplesOf .little [0x00, 0x80] ∧ samplesOf .little [0x00, 0x80] = List.replicate 1 (-32768) := by decide

/-- Two blocks that agree on the two bytes read and differ in others and in many registers. -/
theorem witness_AnalysisReadsOnlyItsOperands :
    (∀ i < 2, (analysing 2).scratchAt i =
      (withBytes 0x00010000 [0xE9, 0x03] { analysing 4 with capacity := 2, draws := 7 }).scratchAt i) ∧
    (withBytes 0x00010000 [0xE9, 0x03] { analysing 4 with capacity := 2, draws := 7 }).commandStep = .sequencer ∧
    (analysing 2).commandStep = .sequencer := by decide

theorem witness_AcknowledgeClearsTheError : (idle [.host (.write .word 0x00000018 0x00000002)]).inputs.head? =
    some (.host (.write .word 0x00000018 0x00000002)) := by decide

theorem witness_InterruptLineAndEnable : (idle [.host (.write .word 0x0000001C 0x0000000F)]).inputs.head? =
    some (.host (.write .word 0x0000001C 0x0000000F)) := by decide

/-- A waiting receive and one host access to come. -/
def busyWith (a : HostAccess) : State := running .recv .rxWait (.receive 8) [.host a]

theorem witness_WritesWhileBusyAreDropped_register : (busyWith (.write .word 0x00000040 0)).seqState ≠ .idle ∧
    (busyWith (.write .word 0x00000040 0)).inputs.head? = some (.host (.write .word 0x00000040 0)) ∧
    (0x00000040#32).toNat ∈ [0x020, 0x024, 0x028, 0x02C, 0x030, 0x034, 0x038, 0x03C, 0x040] := by decide

theorem witness_WritesWhileBusyAreDropped_window : (busyWith (.write .word 0x00010004 0)).seqState ≠ .idle ∧
    (0x00010004#32).toNat % Size.bytes .word = 0 ∧
    ∀ j < Size.bytes .word, PopulatedByte (busyWith (.write .word 0x00010004 0)).params ((0x00010004#32).toNat + j) := by
  decide

theorem witness_WritesWhileBusyAreDropped_reset : (busyWith (.write .word 0x00000004 1)).seqState ≠ .idle ∧
    (0x00000001#32).getLsbD 0 = true := by decide

/-- The running command, a host access while it runs, and the step that ends it. -/
theorem witness_RunningCommandCannotBeCancelled :
    (busyWith (.write .word 0x00000004 1)).seqState ≠ .idle ∧
    nextPasses (step (busyWith (.write .word 0x00000004 1))) (fun t => t.seqState == .rxWait) = true ∧
    nextPasses (step (running .recv .rxWait (.receive 8) [.transport .rxErr])) (fun t => t.seqState == .idle) = true := by
  decide

theorem witness_StepKeepsErrorsConsistent : (idle [cmdWrite 0x00000003]).ErrorOk ∧
    nextPasses (step (idle [cmdWrite 0x00000003])) (fun t => t.errCode == .illegalCmd) = true := by decide

theorem witness_BusErrorsChangeNothing_bad : ¬ GoodAccess Config.params .word 0x00000094 ∧
    ¬ GoodAccess Config.params .byte 0x00010008 ∧ ¬ GoodAccess Config.params .half 0x00000008 := by decide

theorem witness_BusErrorsChangeNothing_good : GoodAccess Config.params .word 0x00000090 ∧
    GoodAccess Config.params .byte 0x00010007 := by decide

theorem witness_BusErrorsChangeNothing : (idle [.host (.read .word 0x00000094)]).params.Legal ∧
    (idle [.host (.read .word 0x00000094)]).inputs.head? = some (.host (.read .word 0x00000094)) ∧
    (idle [.host (.read .word 0x00000094)]).params = Config.params := by decide

theorem witness_HostReadsChangeNothing :
    (idle [.host (.read .byte 0x00010000)]).inputs.head? = some (.host (.read .byte 0x00010000)) := by decide

theorem witness_HostReadsChangeNothing_register :
    (idle [.host (.read .word 0x00000000)]).inputs.head? =
      some (.host (.read .word (BitVec.ofNat 32 (Reg.offset .id)))) ∧
    (busyWith (.read .word 0x00000090)).inputs.head? =
      some (.host (.read .word (BitVec.ofNat 32 (Reg.offset .paramPayload)))) ∧
    (busyWith (.read .word 0x00000090)).seqState ≠ .idle := by decide

theorem witness_WindowReadsAndByteMaps : (idle []).params.Legal ∧ (0x0002_0004#32).toNat % Size.bytes .word = 0 ∧
    ∀ j < Size.bytes .word, PopulatedByte (idle []).params ((0x0002_0004#32).toNat + j) := by decide

theorem witness_WindowWritesAreLittleEndian : (idle []).params.Legal ∧ (idle []).seqState = .idle ∧
    (0x0100_000C#32).toNat % Size.bytes .word = 0 ∧
    ∀ j < Size.bytes .word, PopulatedByte (idle []).params ((0x0100_000C#32).toNat + j) := by decide

theorem witness_ConfigWritesAreStored : Reg.isConfig .cfg = true ∧ Reg.isConfig .sampleRate = true ∧
    (idle [.host (.write .word (BitVec.ofNat 32 (Reg.offset .cfg)) 3)]).inputs.head? =
      some (.host (.write .word (BitVec.ofNat 32 (Reg.offset .cfg)) 3)) ∧
    (idle [.host (.write .word (BitVec.ofNat 32 (Reg.offset .cfg)) 3)]).seqState = .idle := by decide

theorem witness_ReadOnlyWritesAreIgnored : Reg.isReadOnly .pos = true ∧ (0x00000002#32).getLsbD 0 = false ∧
    (idle [.host (.write .word (BitVec.ofNat 32 (Reg.offset .pos)) 7)]).inputs.head? =
      some (.host (.write .word (BitVec.ofNat 32 (Reg.offset .pos)) 7)) := by decide

theorem witness_PowerOnResetValues : (idle [.powerOnReset]).inputs.head? = some .powerOnReset := by decide

theorem witness_SoftResetKeepsMemories : (0x00000001#32).getLsbD 0 = true ∧
    (idle [.host (.write .word 0x00000004 1)]).inputs.head? = some (.host (.write .word 0x00000004 1)) ∧
    (idle [.host (.write .word 0x00000004 1)]).seqState = .idle ∧
    (busyWith (.write .word 0x00000004 1)).seqState ≠ .idle := by decide

theorem witness_ResetIsSound : Params.Legal ⟨2, 0, 0⟩ ∧ Params.Legal ⟨65536, 16777216, 0⟩ := by decide

theorem witness_StepKeepsTheInvariant : (running (.pack 5) .exec .none []).Inv ∧
    nextPasses (step (running (.pack 5) .exec .none [])) (fun t => t.seqState == .idle) = true :=
  ⟨exec_sound _, by decide⟩

theorem witness_SoundStatesNeverStop : (running (.pack 5) .exec .none []).Inv := exec_sound _

theorem witness_StepKeepsMemoryCanonical : Memory.wf (analysing 4).mem = true ∧
    nextPasses (step (analysing 4)) (fun t => t.seqState == .idle) = true := by decide

theorem witness_ReportLogOnlyGrows : (analysing 4).inputs.head? ≠ some .powerOnReset ∧
    nextPasses (step (analysing 4)) (fun t => t.reports.length == 1) = true ∧
    nextPasses (step (idle [.powerOnReset])) (fun t => t.reports == []) = true := by decide

theorem witness_BusyFollowsTheIssue : (idle [cmdWrite 0x00000000]).seqState = .idle ∧
    issueCheck 0x00000000 (idle [cmdWrite 0x00000000]) = .noError ∧
    nextPasses (step (idle [cmdWrite 0x00000000])) (fun t => t.seqState == .exec) = true := by decide

theorem witness_PayloadIsStableWhileBusy : (running (.pack 5) .exec .none []).Inv ∧
    (running (.pack 5) .exec .none []).seqState ≠ .idle ∧
    (running (.pack 5) .exec .none []).inputs.head? ≠ some .powerOnReset ∧ 0x01000000 ≤ 0x0100000F :=
  ⟨exec_sound _, by decide⟩

theorem witness_OnlyAnalysesAndResetsChangeStatistics :
    nextPasses (step (analysing 4)) (fun t => t.stats != (analysing 4).stats && t.statsValid) = true := by decide

theorem witness_IdleStepsIgnoreTheLatches : (idle []).seqState = .idle ∧
    nextPasses (step (idle [])) (fun t => t.seqState == .idle) = true := by decide

theorem witness_RegisterReadsAnswerTheRegisters : (0x000, 0x41535031) ∈ registerValues (idle []) ∧
    (0x090, 16) ∈ registerValues (busyWith (.read .word 0x00000090)) ∧
    (busyWith (.read .word 0x00000090)).inputs.head? = some (.host (.read .word (BitVec.ofNat 32 0x090))) := by decide

end Sys2Proof.Tests
end

section

namespace Sys2Proof.Machine

/-! ### The byte-order helpers (R18) -/

/-- Two bytes written side by side are a word whose high byte weighs 256. -/
theorem toNat_append_byte (hi lo : Byte) : (hi ++ lo : BitVec (8 + 8)).toNat = lo.toNat + 256 * hi.toNat := by
  have hlo : lo.toNat < 2 ^ 8 := lo.isLt
  rw [BitVec.toNat_append, ← Nat.shiftLeft_add_eq_or_of_lt hlo, Nat.shiftLeft_eq]
  omega

/-- In little-endian order the byte at the lower index is the low byte. -/
theorem toNat_pack2_little (b0 b1 : Byte) : (pack2 .little b0 b1).toNat = b0.toNat + 256 * b1.toNat :=
  toNat_append_byte b1 b0

/-- In big-endian order the byte at the higher index is the low byte. -/
theorem toNat_pack2_big (b0 b1 : Byte) : (pack2 .big b0 b1).toNat = b1.toNat + 256 * b0.toNat :=
  toNat_append_byte b0 b1

/-- Settles O14: the values of `pack2` by the weight of the high byte, the bytes of `unpack2` by its definition, and
the two inverse laws of the byte-order helpers. -/
theorem byteOrderHelpersAreInverse : Obligations.ByteOrderHelpersAreInverse := by
  unfold Obligations.ByteOrderHelpersAreInverse
  exact ⟨fun b0 b1 => ⟨toNat_pack2_little b0 b1, toNat_pack2_big b0 b1⟩, fun _ => ⟨rfl, rfl⟩,
    pack2_unpack2, unpack2_pack2⟩

/-! ### The round trip of a byte sequence (R233) -/

/-- `unpack` after `pack` gives the bytes back, and after an odd number of them the one zero pad byte of R232. -/
theorem unpack_pack (bo : ByteOrder) :
    ∀ b : List Byte, unpack bo (pack bo b) = b ++ List.replicate (b.length % 2) 0x00#8
  | [] => rfl
  | [b0] => by simp [pack, unpack]
  | b0 :: b1 :: r => by
    have hparity : (b0 :: b1 :: r).length % 2 = r.length % 2 := Nat.add_mod_right r.length 2
    rw [hparity]
    simp [pack, unpack, unpack_pack bo r]

/-- Settles O16: the first `n` bytes of the round trip are the sequence, and what follows an odd one is the pad. -/
theorem unpackOfPackRoundTrip : Obligations.UnpackOfPackRoundTrip := by
  unfold Obligations.UnpackOfPackRoundTrip
  intro bo b
  rw [unpack_pack]
  constructor
  · exact List.take_left
  · intro hodd
    simp [hodd]

/-! ### The state after power-on reset (R450, R451) -/

/-- The statistics of an empty analysis lie in the ranges of R65 to R70, whatever the memory sizes. -/
theorem powerOn_statsOk (p : Params) : (State.powerOn p).StatsOk := by
  simp [State.StatsOk, State.powerOn, AudioStats.empty]

/-- Power-on reset of a block with legal parameters gives a sound state: idle with no request outstanding, no byte
written, no error recorded, and the statistics of an empty analysis. -/
theorem powerOn_inv {p : Params} (hp : p.Legal) : (State.powerOn p).Inv := by
  have hmem : (State.powerOn p).MemoryOk := ⟨rfl, by simp [State.powerOn]⟩
  have hphase : (State.powerOn p).PhaseOk := rfl
  have herr : (State.powerOn p).ErrorOk := ⟨by simp [State.powerOn], fun _ => ⟨rfl, rfl⟩⟩
  exact ⟨hp, hmem, hphase, herr, powerOn_statsOk p⟩

/-- Settles O50: power-on reset is sound at every legal choice of the parameters, and those of `State.reset` are
legal. -/
theorem resetIsSound : Obligations.ResetIsSound := by
  unfold Obligations.ResetIsSound
  exact ⟨fun _ hp => powerOn_inv hp, powerOn_inv (by decide : Config.params.Legal)⟩

end Sys2Proof.Machine
end

section
/-! SUPPORT. Host accesses that issue no command: what such an access can do, said once (`busStep_hostAccess`), and the
equations of the shared operations it is made of. -/

namespace Sys2Proof.Machine

/-! ### Whose step it is -/

/-- A host write of a command's word is the command's step (R43, R201). -/
theorem step_cmdWrite {s : State} {c : Word} {i : Instr} (h : s.inputs.head? = some (cmdWrite c))
    (hd : decode c = .command i) : step s = exec i s := by
  unfold step
  rw [fetch_of_host h]
  simp [hostTurn, HostAccess.commandWord, hd]

/-- A host write of a word that is no command is its refusal (R154, R201). -/
theorem step_cmdWrite_illegal {s : State} {c : Word} {e : DecodeError} (h : s.inputs.head? = some (cmdWrite c))
    (hd : decode c = .illegal e) : step s = .next (issueIllegal c s) := by
  unfold step
  rw [fetch_of_host h]
  simp [hostTurn, HostAccess.commandWord, hd]

/-- A turn of the sequencer or the transport is the latched command's while BUSY (R80, R203). -/
theorem step_busy {s : State} {i : Instr} (h : s.blockTurn = true) (hb : s.seqState ≠ .idle)
    (hd : s.current = .command i) : step s = exec i s := by
  unfold step
  rw [fetch_of_blockTurn h]
  simp [State.busy, hb, State.commandTurn, hd]

/-- A turn of the sequencer or the transport passes while IDLE (R207). -/
theorem step_idle {s : State} (h : s.blockTurn = true) (hi : s.seqState = .idle) : step s = .next s.pop := by
  unfold step
  rw [fetch_of_blockTurn h]
  simp [State.busy, hi]

/-- The reset input is power-on reset (R450). -/
theorem step_powerOn {s : State} (h : s.inputs.head? = some .powerOnReset) :
    step s = .next (powerOnReset s.pop) := by
  unfold step
  rw [fetch_of_powerOn h]

/-! ### The bus checks -/

/-- Only a word access at the register's own offset reaches it (R101, R110). -/
theorem eq_offset_of_busTarget {p : Params} {size : Size} {addr : Word} {r : Reg}
    (h : busTarget p size addr = some (.reg r)) : size = .word ∧ addr = BitVec.ofNat 32 r.offset := by
  unfold busTarget at h
  split at h
  · cases h
  · split at h
    · cases size <;> simp only [reduceCtorEq, Option.map_eq_some_iff, Target.reg.injEq] at h
      obtain ⟨q, hq, rfl⟩ := h
      have ho : q.offset = addr.toNat := by simpa using List.find?_some hq
      simp [ho]
    · split at h <;> cases h

/-- A window access lies in a populated part of one window (R101). -/
theorem inWindow_of_busTarget {p : Params} {size : Size} {addr : Word}
    (h : busTarget p size addr = some .window) : inWindow p addr.toNat size.bytes = true := by
  unfold busTarget at h
  split at h
  · cases h
  · split at h
    · cases size <;> simp at h
    · split at h
      · assumption
      · cases h

/-- The windows begin at multiples of four, so an aligned access all of whose bytes are populated lies in one. -/
theorem inWindow_of_populated {p : Params} {size : Size} {a : Nat} (hal : a % size.bytes = 0)
    (h : ∀ j < size.bytes, PopulatedByte p (a + j)) : inWindow p a size.bytes = true := by
  have hfirst := h 0 (by cases size <;> decide)
  have hlast := h (size.bytes - 1) (by cases size <;> decide)
  simp only [inWindow, Bool.or_eq_true, Bool.and_eq_true, decide_eq_true_eq]
  unfold scratchBase sampleBase payloadBase
  cases size <;> simp only [Size.bytes] at * <;> omega

/-- An aligned access all of whose bytes are populated is a window access (R101, R110). -/
theorem busTarget_of_populated {p : Params} {size : Size} {addr : Word} (hal : addr.toNat % size.bytes = 0)
    (h : ∀ j < size.bytes, PopulatedByte p (addr.toNat + j)) : busTarget p size addr = some .window := by
  have hfirst := h 0 (by cases size <;> decide)
  have hnoReg : ¬ addr.toNat < scratchBase := by unfold scratchBase; omega
  unfold busTarget
  rw [if_neg (by simpa using hal), if_neg hnoReg, if_pos (inWindow_of_populated hal h)]

/-- The registers stand at the multiples of four below 0x094 (R75, R101). -/
theorem isSome_reg_at {a : Nat} (hal : a % 4 = 0) : (Reg.at a).isSome = true ↔ a < 0x094 := by
  have hall : ∀ k < 37, (Reg.at (4 * k)).isSome = true := by decide
  have hoff : ∀ r ∈ Reg.all, r.offset < 0x094 := by decide
  constructor
  · intro h
    obtain ⟨r, hr⟩ := Option.isSome_iff_exists.1 h
    have ho : r.offset = a := by simpa using List.find?_some hr
    exact ho ▸ hoff r (List.mem_of_find?_eq_some hr)
  · intro h
    have := hall (a / 4) (by omega)
    rwa [show 4 * (a / 4) = a by omega] at this

/-- The bus checks of the model are those of R101, R110 and R111. -/
theorem busTarget_eq_none_iff {p : Params} {size : Size} {addr : Word} :
    busTarget p size addr = none ↔ ¬ GoodAccess p size addr := by
  by_cases hal : addr.toNat % size.bytes = 0
  swap
  · simp [busTarget, GoodAccess, hal]
  by_cases hreg : addr.toNat < scratchBase
  · have hpop : ¬ ∀ j < size.bytes, PopulatedByte p (addr.toNat + j) := by
      intro h
      have hfirst := h 0 (by cases size <;> decide)
      unfold scratchBase at hreg; omega
    unfold busTarget GoodAccess
    rw [if_neg (by simpa using hal), if_pos hreg]
    cases size with
    | byte => simp [hpop]
    | half => simp [hpop]
    | word =>
      rw [Option.map_eq_none_iff, ← Option.not_isSome_iff_eq_none, isSome_reg_at hal]
      simp only [hal, hpop, true_and, or_false]
  · have hword : ¬ addr.toNat < 0x094 := by unfold scratchBase at hreg; omega
    unfold busTarget
    rw [if_neg (by simpa using hal), if_neg hreg]
    constructor
    · rintro h ⟨-, ⟨-, hlt⟩ | hpop⟩
      · exact hword hlt
      · simp [inWindow_of_populated hal hpop] at h
    · intro h
      refine if_neg fun hwin => h ⟨hal, .inr fun j hj => ?_⟩
      exact populated_of_inWindow hwin (by omega) (by omega)

/-! ### The operations of a host access -/

theorem unlessBusy_of_idle {addr : Word} {f : State → State} {s : State} (h : s.seqState = .idle) :
    unlessBusy addr f s = f s := by
  simp [unlessBusy, State.busy, h]

theorem unlessBusy_of_busy {addr : Word} {f : State → State} {s : State} (h : s.seqState ≠ .idle) :
    unlessBusy addr f s = cmdError .writeBusy addr s := by
  simp [unlessBusy, State.busy, h]

/-- A configuration write, as one record (R48 to R54). -/
theorem setConfig_eq (r : Reg) (v : Word) (s : State) :
    setConfig r v s = { s with
      byteOrder := if r = .cfg then ByteOrder.ofBit (v.getLsbD 0) else s.byteOrder
      capacity := if r = .capacity then v else s.capacity
      blockBytes := if r = .blockBytes then v else s.blockBytes
      payloadLen := if r = .payloadLen then v else s.payloadLen
      noiseThr := if r = .noiseThr then v else s.noiseThr
      moderateBp := if r = .moderateBp then v else s.moderateBp
      strongBp := if r = .strongBp then v else s.strongBp
      activeBp := if r = .activeBp then v else s.activeBp
      sampleRate := if r = .sampleRate then v else s.sampleRate } := by
  cases r <;> rfl

/-- A write to a configuration register (R212). -/
theorem writeReg_config {r : Reg} (h : r.isConfig = true) (addr v : Word) (s : State) :
    writeReg r addr v s = unlessBusy addr (setConfig r v) s := by
  cases r <;> simp [Reg.isConfig, writeReg] at h ⊢

/-- A write to a read-only register is ignored (R114). -/
theorem writeReg_readOnly {r : Reg} (h : r.isReadOnly = true) (addr v : Word) (s : State) :
    writeReg r addr v s = s := by
  cases r <;> simp [Reg.isReadOnly, writeReg] at h ⊢

/-- Every register is read-only, a configuration register, or one of four with a rule of its own. -/
theorem reg_kinds (r : Reg) :
    r.isReadOnly = true ∨ r.isConfig = true ∨ r = .ctrl ∨ r = .cmd ∨ r = .irqStatus ∨ r = .irqEnable := by
  cases r <;> decide

/-- What a host access that issues no command can do to the state. -/
inductive BusStep (s : State) : HostAccess → State → Prop
  | busError {a : HostAccess} (h : busTarget s.params a.place.1 a.place.2 = none) : BusStep s a (s.answerHost .busError)
  | readReg {size : Size} {addr : Word} (r : Reg) (h : busTarget s.params size addr = some (.reg r)) :
      BusStep s (.read size addr) (s.answerHost (.value (readReg s r)))
  | readWindow {size : Size} {addr : Word} (h : busTarget s.params size addr = some .window) :
      BusStep s (.read size addr) (s.answerHost (.value (windowValue s size addr))).drawn
  | dropped {size : Size} {addr v : Word} (g : Target) (h : busTarget s.params size addr = some g)
      (hb : s.seqState ≠ .idle) : BusStep s (.write size addr v) (cmdError .writeBusy addr (s.answerHost .ack))
  | ignored {size : Size} {addr v : Word} (g : Target) (h : busTarget s.params size addr = some g) :
      BusStep s (.write size addr v) (s.answerHost .ack)
  | acknowledge {size : Size} {addr v : Word} (g : Target) (h : busTarget s.params size addr = some g) :
      BusStep s (.write size addr v) (acknowledge (v.extractLsb' 0 4) (s.answerHost .ack))
  | irqEnable {size : Size} {addr v : Word} (g : Target) (h : busTarget s.params size addr = some g) :
      BusStep s (.write size addr v) { s.answerHost .ack with irqEnable := v.extractLsb' 0 4 }
  | config {size : Size} {addr v : Word} (r : Reg) (h : busTarget s.params size addr = some (.reg r))
      (hi : s.seqState = .idle) : BusStep s (.write size addr v) (setConfig r v (s.answerHost .ack))
  | window {size : Size} {addr v : Word} (h : busTarget s.params size addr = some .window)
      (hi : s.seqState = .idle) : BusStep s (.write size addr v) (writeWindow size addr v (s.answerHost .ack))
  | softReset {size : Size} {addr v : Word} (h : busTarget s.params size addr = some (.reg .ctrl))
      (hi : s.seqState = .idle) (hv : v.getLsbD 0 = true) :
      BusStep s (.write size addr v) (softReset (s.answerHost .ack))

/-- A register write that issues no command, by the kind of the register. -/
theorem busStep_writeReg {s : State} {size : Size} {addr v : Word} {r : Reg}
    (h : busTarget s.params size addr = some (.reg r)) :
    BusStep s (.write size addr v) (writeReg r addr v (s.answerHost .ack)) := by
  rcases reg_kinds r with hr | hr | rfl | rfl | rfl | rfl
  · rw [writeReg_readOnly hr]; exact .ignored _ h
  · rw [writeReg_config hr]
    by_cases hi : s.seqState = .idle
    · rw [unlessBusy_of_idle (by exact hi)]; exact .config r h hi
    · rw [unlessBusy_of_busy (by exact hi)]; exact .dropped _ h hi
  · simp only [writeReg, writeCtrl]
    split
    · by_cases hi : s.seqState = .idle
      · rw [unlessBusy_of_idle (by exact hi)]; exact .softReset h hi ‹_›
      · rw [unlessBusy_of_busy (by exact hi)]; exact .dropped _ h hi
    · exact .ignored _ h
  · exact .ignored _ h
  · exact .acknowledge _ h
  · exact .irqEnable _ h

/-- What a host access that issues no command can do. -/
theorem busStep_hostAccess (a : HostAccess) (s : State) : BusStep s a (hostAccess a s) := by
  cases a with
  | read size addr =>
    simp only [hostAccess, hostRead]
    split
    · exact .readReg _ ‹_›
    · exact .readWindow ‹_›
    · exact .busError ‹_›
  | write size addr v =>
    simp only [hostAccess, hostWrite]
    split
    · exact busStep_writeReg ‹_›
    · by_cases hi : s.seqState = .idle
      · rw [unlessBusy_of_idle (by exact hi)]; exact .window ‹_› hi
      · rw [unlessBusy_of_busy (by exact hi)]; exact .dropped _ ‹_› hi
    · exact .busError ‹_›

/-- A host access that issues no command leaves SEQ_STATE, the parameters and the report log alone. -/
theorem BusStep.frame {s t : State} {a : HostAccess} (h : BusStep s a t) :
    t.seqState = s.seqState ∧ t.params = s.params ∧ t.reports = s.reports := by
  cases h with
  | config r h hi => simp [setConfig_eq]
  | window h hi => simp [writeWindow]
  | softReset h hi hv => simp [Machine.softReset, State.powerOn, hi]
  | _ => simp

/-- A host access is always answered, with a bus error exactly where the bus checks find no target (R112). -/
theorem BusStep.hostResp {s t : State} {a : HostAccess} (h : BusStep s a t) :
    t.hostResp ≠ .none ∧ (t.hostResp = .busError ↔ busTarget s.params a.place.1 a.place.2 = none) := by
  cases h with
  | config r h hi => simp [setConfig_eq, HostAccess.place, h]
  | window h hi => simp [writeWindow, HostAccess.place, h]
  | softReset h hi hv => simp [Machine.softReset, HostAccess.place, h]
  | busError h => simp [h]
  | _ => simp [HostAccess.place, *]

/-! ### Steps of the host -/

/-- An access without a target is only answered (R112). -/
theorem hostAccess_of_busTarget_none {s : State} {a : HostAccess}
    (h : busTarget s.params a.place.1 a.place.2 = none) : hostAccess a s = s.answerHost .busError := by
  cases a with
  | read size addr =>
    have hnone : busTarget s.params size addr = none := h
    simp only [hostAccess, hostRead, hnone]
  | write size addr v =>
    have hnone : busTarget s.params size addr = none := h
    simp only [hostAccess, hostWrite, hnone]

/-- Only a word write to CMD issues a command (R43). -/
theorem commandWord_eq_none {a : HostAccess} (h : ∀ c, a ≠ .write .word 0x0000000C c) : a.commandWord = none := by
  rw [Option.eq_none_iff_forall_ne_some]
  exact fun c hc => h c (commandWord_eq_some.1 hc)

/-- The issue of any word is acknowledged (log 8). -/
theorem step_cmdWrite_ack {s : State} {c : Word} (h : s.inputs.head? = some (cmdWrite c)) :
    ∃ t, step s = .next t ∧ t.hostResp = .ack := by
  cases hd : decode c with
  | illegal e => exact ⟨_, step_cmdWrite_illegal h hd, by simp [issueIllegal]⟩
  | command i =>
    refine ⟨_, (step_cmdWrite h hd).trans (exec_issue i s (commandStep_of_cmdWrite h)), ?_⟩
    split
    · split <;> simp
    · simp [raised]

/-- The host's turn is always taken and answered, with a bus error exactly where the bus checks find no target (R112).
-/
theorem step_host {s : State} {a : HostAccess} (h : s.inputs.head? = some (.host a)) :
    ∃ t, step s = .next t ∧ t.hostResp ≠ .none ∧
      (t.hostResp = .busError ↔ busTarget s.params a.place.1 a.place.2 = none) := by
  cases hc : a.commandWord with
  | none => exact ⟨_, step_hostAccess h hc, (busStep_hostAccess a s).hostResp⟩
  | some c =>
    obtain rfl := commandWord_eq_some.1 hc
    obtain ⟨t, ht, hr⟩ := step_cmdWrite_ack h
    have htarget : busTarget s.params .word (BitVec.ofNat 32 Reg.cmd.offset) = some (.reg .cmd) :=
      busTarget_offset s.params .cmd
    refine ⟨t, ht, by simp [hr], ?_⟩
    simp only [hr, reduceCtorEq, false_iff]
    exact fun hnone => Option.some_ne_none _ (htarget.symm.trans hnone)

/-- A host write to a register other than CMD. -/
theorem step_writeReg {s : State} {r : Reg} {v : Word}
    (h : s.inputs.head? = some (.host (.write .word (BitVec.ofNat 32 r.offset) v))) (hr : r ≠ .cmd) :
    step s = .next (writeReg r (BitVec.ofNat 32 r.offset) v (s.answerHost .ack)) := by
  have hc : (HostAccess.write .word (BitVec.ofNat 32 r.offset) v).commandWord = none := by
    cases r <;> simp [HostAccess.commandWord, Reg.offset] at hr ⊢
  rw [step_hostAccess h hc]
  simp only [hostAccess, hostWrite, busTarget_offset]

/-- A host word read of a register (R110, R114). -/
theorem step_readReg {s : State} {r : Reg}
    (h : s.inputs.head? = some (.host (.read .word (BitVec.ofNat 32 r.offset)))) :
    step s = .next (s.answerHost (.value (readReg s r))) := by
  rw [step_hostAccess h rfl]
  simp only [hostAccess, hostRead, busTarget_offset]

end Sys2Proof.Machine
end

section
/-! Obligations about single host accesses and turns (10_state.md, 20_memory.md, 60_exceptions.md). -/

namespace Sys2Proof.Machine

/-! ### The command at hand -/

/-- Settles O6: `fetch` hands a CMD write to the command its word decodes to. -/
theorem stepRunsTheIssuedCommand : Obligations.StepRunsTheIssuedCommand :=
  fun _ _ _ h hd => step_cmdWrite h hd

/-- Settles O7: `fetch` hands a busy block's own turn to the command the latches decode to. -/
theorem stepRunsTheLatchedCommand : Obligations.StepRunsTheLatchedCommand :=
  fun _ _ h hb hd => step_busy h hb hd

/-! ### Bus errors -/

/-- Settles O41: the model's bus checks are `GoodAccess`, a command word is a good access, and an access without a
target is only answered. -/
theorem busErrorsChangeNothing : Obligations.BusErrorsChangeNothing := by
  unfold Obligations.BusErrorsChangeNothing
  intro s a _ h
  obtain ⟨t, ht, _, hresp⟩ := step_host h
  rw [busTarget_eq_none_iff] at hresp
  constructor
  · intro hbad
    have hc : a.commandWord = none := by
      refine commandWord_eq_none ?_
      rintro c rfl
      exact hbad ⟨by simp [HostAccess.place, Size.bytes], .inl ⟨rfl, by simp [HostAccess.place]⟩⟩
    rw [step_hostAccess h hc, hostAccess_of_busTarget_none (busTarget_eq_none_iff.2 hbad)]
    rfl
  · exact fun hgood => ⟨t, ht, fun he => hresp.1 he hgood⟩

/-! ### Register writes -/

/-- Bit 1 of a write to IRQ_STATUS is the one that acknowledges an error (R46). -/
theorem extractLsb'_and_irqErr (v : Word) : v.extractLsb' 0 4 &&& irqErr = 0 ↔ v.getLsbD 1 = false := by
  have hbit : ∀ o : BitVec 4, o &&& irqErr = 0 ↔ o.getLsbD 1 = false := by decide
  rw [hbit, BitVec.getLsbD_extractLsb']
  simp

/-- Settles O36: the write is `acknowledge`, taken apart by bit 1. -/
theorem acknowledgeClearsTheError : Obligations.AcknowledgeClearsTheError := by
  unfold Obligations.AcknowledgeClearsTheError
  intro s v h
  rw [step_writeReg (r := .irqStatus) h (by decide)]
  have hack : writeReg .irqStatus 0x00000018 v (s.answerHost .ack) =
      acknowledge (v.extractLsb' 0 4) (s.answerHost .ack) := rfl
  by_cases hv : v.getLsbD 1 = true
  · have hones : v.extractLsb' 0 4 &&& irqErr ≠ 0 := fun h0 => by
      rw [(extractLsb'_and_irqErr v).1 h0] at hv; cases hv
    simp only [hv, if_true]
    exact congrArg _ (hack.trans (if_neg hones))
  · have hones := (extractLsb'_and_irqErr v).2 (by simpa using hv)
    simp only [hv]
    exact congrArg _ (hack.trans (if_pos hones))

/-- Four bits are not all 0 exactly when one of them is set. -/
theorem ne_zero_iff_getLsbD {n : Nat} (x : BitVec n) : x ≠ 0 ↔ ∃ j < n, x.getLsbD j = true := by
  rw [← not_iff_not]
  push Not
  exact ⟨by rintro rfl; simp, fun h => BitVec.eq_of_getLsbD_eq fun j hj => by simpa using h j hj⟩

/-- Settles O37: the line is a non-zero word of pending and enabled bits, both 0 after power-on reset. -/
theorem interruptLineAndEnable : Obligations.InterruptLineAndEnable := by
  unfold Obligations.InterruptLineAndEnable
  refine ⟨fun s => ?_, fun p => ?_, fun s v h => step_writeReg (r := .irqEnable) h (by decide)⟩
  · simp only [State.irq, bne_iff_ne, ne_zero_iff_getLsbD, BitVec.getLsbD_and, Bool.and_eq_true]
  · simp [State.irq, State.powerOn]

/-- Settles O47: a write to a read-only register, and to CTRL without bit 0, leaves the acknowledged state alone. -/
theorem readOnlyWritesAreIgnored : Obligations.ReadOnlyWritesAreIgnored := by
  unfold Obligations.ReadOnlyWritesAreIgnored
  rintro r s v (hr | ⟨rfl, hv⟩) h
  · rw [step_writeReg h (by rintro rfl; cases hr), writeReg_readOnly hr]
    rfl
  · rw [step_writeReg h (by decide)]
    simp only [writeReg, writeCtrl, hv]
    rfl

/-- CFG reads back its bit 0 (R48). -/
theorem code_ofBit (v : Word) : (ByteOrder.ofBit (v.getLsbD 0)).code.setWidth 32 = v &&& 1#32 := by
  rw [BitVec.and_one_eq_setWidth_ofBool_getLsbD]
  cases v.getLsbD 0 <;> rfl

/-- A configuration register reads back what was written, CFG its bit 0 (R48 to R54). -/
theorem readReg_setConfig_same {r : Reg} (h : r.isConfig = true) (v : Word) (s : State) :
    readReg (setConfig r v s) r = if r = .cfg then v &&& 1#32 else v := by
  cases r <;> simp [Reg.isConfig] at h <;> simp only [setConfig, readReg, code_ofBit] <;> rfl

/-- A configuration write changes what no other register reads (R48 to R54). -/
theorem readReg_setConfig_of_ne {q r : Reg} (h : q ≠ r) (v : Word) (s : State) :
    readReg (setConfig r v s) q = readReg s q := by
  rw [setConfig_eq]
  cases q <;> simp [readReg, h.symm, State.statusWord, State.errWord, State.busy]

/-- The response to a host access is no register. -/
theorem readReg_answerHost (r : HostResp) (s : State) (q : Reg) : readReg (s.answerHost r) q = readReg s q := by
  cases q <;> rfl

/-- Settles O46: the write is `setConfig` on the acknowledged state. -/
theorem configWritesAreStored : Obligations.ConfigWritesAreStored := by
  unfold Obligations.ConfigWritesAreStored
  intro r s v hr h hi
  refine ⟨setConfig r v (s.answerHost .ack), ?_, readReg_setConfig_same hr v _, fun q hq => ?_, ?_⟩
  · rw [step_writeReg h (by rintro rfl; cases hr), writeReg_config hr, unlessBusy_of_idle (by exact hi)]
  · rw [readReg_setConfig_of_ne hq, readReg_answerHost]
  · simp [setConfig_eq]

/-! ### Writes while busy -/

/-- The offsets R212 protects are those of the configuration registers. -/
theorem exists_config_of_offset {a : Word}
    (h : a.toNat ∈ [0x020, 0x024, 0x028, 0x02C, 0x030, 0x034, 0x038, 0x03C, 0x040]) :
    ∃ r : Reg, r.isConfig = true ∧ a = BitVec.ofNat 32 r.offset := by
  have hall : ∀ n ∈ [0x020, 0x024, 0x028, 0x02C, 0x030, 0x034, 0x038, 0x03C, 0x040],
      ∃ r ∈ Reg.configs, r.isConfig = true ∧ r.offset = n := by decide
  obtain ⟨r, -, hr, ho⟩ := hall _ h
  exact ⟨r, hr, by simp [ho]⟩

/-- Settles O38: the three kinds of write R212 drops each raise WRITE_BUSY on the acknowledged access. -/
theorem writesWhileBusyAreDropped : Obligations.WritesWhileBusyAreDropped := by
  unfold Obligations.WritesWhileBusyAreDropped
  rintro s size a v h hb (⟨rfl, ha⟩ | ⟨hal, hpop⟩ | ⟨rfl, rfl, hv⟩) <;> rw [← cmdError_answerHost]
  · obtain ⟨r, hr, rfl⟩ := exists_config_of_offset ha
    rw [step_writeReg h (by rintro rfl; cases hr), writeReg_config hr, unlessBusy_of_busy (by exact hb)]
  · have hc : (HostAccess.write size a v).commandWord = none := by
      refine commandWord_eq_none fun c hc => ?_
      cases hc
      exact absurd (hpop 0 (by decide)) (by simp)
    rw [step_hostAccess h hc]
    simp only [hostAccess, hostWrite, busTarget_of_populated hal hpop, unlessBusy_of_busy (s := s.answerHost .ack) hb]
  · rw [step_writeReg (r := .ctrl) h (by decide)]
    simp only [writeReg, writeCtrl, hv, if_true, unlessBusy_of_busy (s := s.answerHost .ack) hb]
    rfl

/-! ### Register reads -/

/-- The fields of STATUS (R42). -/
theorem statusWord_fields (s : State) :
    (s.statusWord.getLsbD 0 = true ↔ s.seqState ≠ .idle) ∧ s.statusWord.extractLsb' 1 3 = s.seqState.code ∧
      s.statusWord.getLsbD 4 = s.statsValid ∧ s.statusWord.toNat < 32 := by
  unfold State.statusWord State.busy
  cases s.seqState <;> cases s.statsValid <;> decide

/-- The fields of ERR (R44). -/
theorem errWord_fields (s : State) :
    s.errWord.extractLsb' 0 8 = s.errCode.code ∧ s.errWord.getLsbD 8 = s.errOvf ∧ s.errWord.toNat < 512 := by
  unfold State.errWord
  cases s.errCode <;> cases s.errOvf <;> decide

/-- Settles O45: the fields of the two words, with the codes of SEQ_STATE and ERR_CODE written out. -/
theorem statusAndErrFields : Obligations.StatusAndErrFields := by
  unfold Obligations.StatusAndErrFields
  intro s
  obtain ⟨hbusy, hseq, hvalid, hstatus⟩ := statusWord_fields s
  obtain ⟨hcode, hovf, herr⟩ := errWord_fields s
  refine ⟨hbusy, hseq.trans ?_, hvalid, hstatus, hcode.trans ?_, hovf, herr⟩
  · cases s.seqState <;> rfl
  · cases s.errCode <;> rfl

/-- A field of a narrower register reads zero-extended. -/
theorem setWidth_eq_zero_append (x : BitVec 4) : x.setWidth 32 = 0#28 ++ x :=
  BitVec.setWidth_eq_append (by decide)

/-- Every register but STATUS and ERR, in the order of the offsets: those that `registerValues` lists. -/
def listedRegs : List Reg :=
  [Reg.id, Reg.ctrl, Reg.cmd, Reg.errCmd, Reg.irqStatus, Reg.irqEnable] ++ Reg.configs ++ Reg.progress ++ Reg.results

/-- `registerValues` lists each register's offset and what a read of it answers. -/
theorem registerValues_eq (s : State) : registerValues s = listedRegs.map fun r => (r.offset, readReg s r) := by
  simp only [registerValues, listedRegs, Reg.configs, Reg.progress, Reg.results, List.cons_append, List.nil_append,
    List.map_cons, List.map_nil, Reg.offset, readReg, setWidth_eq_zero_append, List.cons.injEq, Prod.mk.injEq, true_and,
    and_true]
  refine ⟨?_, ?_, ?_⟩
  · cases s.byteOrder <;> rfl
  · rcases s.lastOutcome with _ | _ | _ | _ | _ <;> rfl
  · cases s.stats.strength <;> rfl

/-- Settles O59: a listed offset is a register's, and the listed value is what `readReg` answers. -/
theorem registerReadsAnswerTheRegisters : Obligations.RegisterReadsAnswerTheRegisters := by
  unfold Obligations.RegisterReadsAnswerTheRegisters
  intro s off v h hv
  rw [registerValues_eq] at hv
  obtain ⟨r, -, hr⟩ := List.mem_map.1 hv
  cases hr
  exact step_readReg h

end Sys2Proof.Machine
end

section
/-! What a step does to the memories, the error registers, the statistics and the report log, each said once over the
cases of `StepOf`. -/

namespace Sys2Proof.Machine

/-! ### The memories -/

/-- `m'` is `m` after writes at addresses of `R` only. -/
structure WritesOnly (R : Nat → Prop) (m m' : List Host.Cell) : Prop where
  /-- The canonical form is kept. -/
  wf : Memory.wf m = true → Memory.wf m' = true
  /-- What is listed was listed before or lies in `R`. -/
  listed : ∀ x ∈ m', x ∈ m ∨ R x.1
  /-- Outside `R` every byte is as before. -/
  kept : ∀ a, ¬ R a → Memory.lookup m' a = Memory.lookup m a

theorem WritesOnly.refl (R : Nat → Prop) (m : List Host.Cell) : WritesOnly R m m :=
  ⟨id, fun _ hx => .inl hx, fun _ _ => rfl⟩

/-- Writing consecutive bytes of `R` after writes in `R`. -/
theorem WritesOnly.writeList {R : Nat → Prop} {m m' : List Host.Cell} {a : Nat} {bytes : List Byte}
    (h : WritesOnly R m m') (hR : ∀ x, a ≤ x → x < a + bytes.length → R x) :
    WritesOnly R m (Memory.writeList m' a bytes) where
  wf hm := wf_writeList (h.wf hm)
  listed x hx := by
    rcases mem_writeList hx with hx | ⟨h1, h2⟩
    · exact h.listed x hx
    · exact .inr (hR _ h1 h2)
  kept b hb := by
    rw [lookup_writeList_outside, h.kept b hb]
    by_contra hin
    exact hb (hR b (by omega) (by omega))

/-- A step of `s` may write the byte at `a`: if `s` is sound, `a` is populated and, while BUSY, no payload byte. -/
def State.MayWrite (s : State) (a : Nat) : Prop :=
  s.Inv → PopulatedByte s.params a ∧ (s.seqState ≠ .idle → a < payloadBase)

/-- The block's own writes to scratch (R36, R115). -/
theorem mayWrite_scratch {s : State} {n a : Nat} (hn : s.Inv → n ≤ s.params.scratchBytes) (h1 : scratchBase ≤ a)
    (h2 : a < scratchBase + n) : s.MayWrite a := by
  intro hs
  have := hn hs
  obtain ⟨-, -, hmax, -⟩ := hs.1
  unfold PopulatedByte; unfold payloadBase; unfold scratchBase at h1 h2
  omega

/-- The block's own writes to the sample buffer (R37, R115). -/
theorem mayWrite_samples {s : State} {n a : Nat} (hn : s.Inv → n ≤ s.params.scratchBytes) (h1 : sampleBase ≤ a)
    (h2 : a < sampleBase + n) : s.MayWrite a := by
  intro hs
  have := hn hs
  obtain ⟨-, -, hmax, -⟩ := hs.1
  unfold PopulatedByte; unfold payloadBase; unfold sampleBase at h1 h2
  omega

/-- A write to scratch that fits, after others. -/
theorem WritesOnly.writeScratch {s : State} {m : List Host.Cell} {bytes : List Byte}
    (h : WritesOnly s.MayWrite s.mem m) (hn : s.Inv → bytes.length ≤ s.params.scratchBytes) :
    WritesOnly s.MayWrite s.mem (writeScratch m bytes) :=
  h.writeList fun _ => mayWrite_scratch hn

/-- A write to the sample buffer that fits, after others. -/
theorem WritesOnly.writeSamples {s : State} {m : List Host.Cell} {words : List Half}
    (h : WritesOnly s.MayWrite s.mem m) (hn : s.Inv → 2 * words.length ≤ s.params.scratchBytes) :
    WritesOnly s.MayWrite s.mem (writeSamples m words) :=
  h.writeList fun _ => mayWrite_samples (by rwa [length_sampleBytes])

/-- A host access writes a populated window address of an idle block, or nothing (R104, R212). -/
theorem BusStep.writesOnly {s t : State} {a : HostAccess} (h : BusStep s a t) :
    WritesOnly s.MayWrite s.mem t.mem := by
  cases h with
  | window h hi =>
    refine (WritesOnly.refl _ _).writeList fun x h1 h2 _ => ⟨?_, fun hb => absurd hi hb⟩
    exact populated_of_inWindow (inWindow_of_busTarget h) h1 (by simpa using h2)
  | config r h hi => simpa [setConfig_eq] using WritesOnly.refl _ _
  | _ => simpa [Machine.softReset] using WritesOnly.refl _ _

/-! ### SEQ_STATE, the latched command and TREQ, state by state -/

section Phase

variable {s : State}

theorem phaseOk_idle (h : s.seqState = .idle) : s.PhaseOk ↔ s.treq = .none := by
  simp only [State.PhaseOk, h]

theorem phaseOk_exec (h : s.seqState = .exec) : s.PhaseOk ↔ s.treq = .none ∧ s.ExecOk := by
  simp only [State.PhaseOk, h]

theorem phaseOk_sendIssue (h : s.seqState = .sendIssue) :
    s.PhaseOk ↔ s.treq = .none ∧ s.current = .command .send ∧ s.capOk ∧ s.SendProgress := by
  simp only [State.PhaseOk, h]

theorem phaseOk_txWait (h : s.seqState = .txWait) :
    s.PhaseOk ↔ (∃ words, s.treq = .transmit words ∧ words.length = (s.curCs.toNat + 1) / 2) ∧
      s.current = .command .send ∧ s.capOk ∧ s.SendProgress ∧ s.pos.toNat < s.payloadLen.toNat ∧
      s.curCs.toNat = s.chunkSize := by
  simp only [State.PhaseOk, h]
  cases s.treq <;> simp

theorem phaseOk_rxIssue (h : s.seqState = .rxIssue) :
    s.PhaseOk ↔ s.treq = .none ∧ (s.current = .command .recv ∨ s.current = .command .recvAnalyze) ∧ s.ReceiveOk := by
  simp only [State.PhaseOk, h]

theorem phaseOk_rxWait (h : s.seqState = .rxWait) :
    s.PhaseOk ↔ s.treq = .receive s.blockBytes.toNat ∧
      (s.current = .command .recv ∨ s.current = .command .recvAnalyze) ∧ s.ReceiveOk := by
  simp only [State.PhaseOk, h]

theorem phaseOk_rxAnalyze (h : s.seqState = .rxAnalyze) :
    s.PhaseOk ↔ s.treq = .none ∧ s.current = .command .recvAnalyze ∧ s.ReceiveOk := by
  simp only [State.PhaseOk, h]

/-- What request is outstanding follows from SEQ_STATE (R82). -/
theorem State.PhaseOk.treq_eq (h : s.PhaseOk) :
    (s.seqState = .txWait ∧ ∃ words, s.treq = .transmit words) ∨
      (s.seqState = .rxWait ∧ s.treq = .receive s.blockBytes.toNat) ∨
      (s.seqState ≠ .txWait ∧ s.seqState ≠ .rxWait ∧ s.treq = .none) := by
  cases hs : s.seqState with
  | idle => simp [(phaseOk_idle hs).1 h]
  | exec => simp [((phaseOk_exec hs).1 h).1]
  | sendIssue => simp [((phaseOk_sendIssue hs).1 h).1]
  | txWait =>
    obtain ⟨⟨words, ht, -⟩, -⟩ := (phaseOk_txWait hs).1 h
    simp [ht]
  | rxIssue => simp [((phaseOk_rxIssue hs).1 h).1]
  | rxWait => simp [((phaseOk_rxWait hs).1 h).1]
  | rxAnalyze => simp [((phaseOk_rxAnalyze hs).1 h).1]

/-- A transmit request is outstanding in TX_WAIT only (R82). -/
theorem State.PhaseOk.txWait {words : List Half} (h : s.PhaseOk) (ht : s.treq = .transmit words) :
    s.seqState = .txWait := by
  rcases h.treq_eq with ⟨hs, -⟩ | ⟨-, h'⟩ | ⟨-, -, h'⟩
  · exact hs
  · rw [ht] at h'; cases h'
  · rw [ht] at h'; cases h'

/-- A receive request is outstanding in RX_WAIT only, and for BLOCK_BYTES bytes (R82, R272). -/
theorem State.PhaseOk.rxWait {n : Nat} (h : s.PhaseOk) (ht : s.treq = .receive n) :
    s.seqState = .rxWait ∧ n = s.blockBytes.toNat := by
  rcases h.treq_eq with ⟨-, words, h'⟩ | ⟨hs, h'⟩ | ⟨-, -, h'⟩
  · rw [ht] at h'; cases h'
  · rw [ht] at h'; cases h'; exact ⟨hs, rfl⟩
  · rw [ht] at h'; cases h'

/-- The EXEC step of PACK packs at most the capacity (R201, R206). -/
theorem State.PhaseOk.pack {l : Nat} (h : s.PhaseOk) (hs : s.seqState = .exec) (hd : s.current = .command (.pack l)) :
    s.capOk ∧ l ≤ s.capacity.toNat := by
  have hx := ((phaseOk_exec hs).1 h).2
  simpa only [State.ExecOk, hd] using hx

/-- The EXEC step of UNPACK unpacks at most the capacity (R201, R206). -/
theorem State.PhaseOk.unpack {k : Nat} (h : s.PhaseOk) (hs : s.seqState = .exec)
    (hd : s.current = .command (.unpack k)) :
    s.capOk ∧ k ≤ s.capacity.toNat / 2 := by
  have hx := ((phaseOk_exec hs).1 h).2
  simpa only [State.ExecOk, hd] using hx

/-- The EXEC step of ANALYZE analyses at most the capacity (R201, R206). -/
theorem State.PhaseOk.analyze {l : Nat} (h : s.PhaseOk) (hs : s.seqState = .exec)
    (hd : s.current = .command (.analyze l)) :
    s.capOk ∧ l ≤ s.capacity.toNat := by
  have hx := ((phaseOk_exec hs).1 h).2
  simpa only [State.ExecOk, hd] using hx

/-- What a receive request asks for fits scratch (R201, R272). -/
theorem State.PhaseOk.receive_fits {n : Nat} (h : s.PhaseOk) (ht : s.treq = .receive n) :
    n ≤ s.params.scratchBytes := by
  obtain ⟨hs, rfl⟩ := h.rxWait ht
  obtain ⟨-, -, ⟨-, -, hcap⟩, hblock⟩ := (phaseOk_rxWait hs).1 h
  exact hblock.trans hcap

/-- A chunk is at most the capacity (R265). -/
theorem chunkSize_le_capacity (s : State) : s.chunkSize ≤ s.capacity.toNat := Nat.min_le_right _ _

/-- A chunk padded to whole words fits a legal capacity (R204, R265). -/
theorem chunkSize_padded_le (h : s.capOk) : s.chunkSize + s.chunkSize % 2 ≤ s.params.scratchBytes := by
  have := chunkSize_le_capacity s
  obtain ⟨heven, -, hmax⟩ := h
  omega

@[simp] theorem length_chunkBytes (s : State) : s.chunkBytes.length = s.chunkSize + s.chunkSize % 2 := by
  simp [State.chunkBytes]

@[simp] theorem length_chunkWords (s : State) : s.chunkWords.length = (s.chunkSize + 1) / 2 := by
  simp [State.chunkWords]; omega

end Phase

/-- Every step but power-on reset writes the memories only where it may. -/
theorem StepOf.writesOnly {s t : State} (h : StepOf s t) (hp : s.inputs.head? ≠ some .powerOnReset) :
    WritesOnly s.MayWrite s.mem t.mem := by
  have hsame := WritesOnly.refl s.MayWrite s.mem
  cases h with
  | powerOn h => exact absurd h hp
  | bus a h hc => exact (busStep_hostAccess a s).writesOnly
  | pack l h hs hd =>
    refine hsame.writeSamples fun hi => ?_
    obtain ⟨-, -, hphase, -⟩ := hi
    obtain ⟨⟨heven, -, hmax⟩, hl⟩ := hphase.pack hs hd
    simp; omega
  | unpack k h hs hd =>
    refine hsame.writeScratch fun hi => ?_
    obtain ⟨-, -, hphase, -⟩ := hi
    obtain ⟨⟨heven, -, hmax⟩, hk⟩ := hphase.unpack hs hd
    simp; omega
  | sendIssue h hs hd =>
    unfold sendIssueStep
    split
    · simpa using hsame
    · have hfits : s.Inv → s.chunkSize + s.chunkSize % 2 ≤ s.params.scratchBytes := by
        rintro ⟨-, -, hphase, -⟩
        obtain ⟨-, -, hcap, -⟩ := (phaseOk_sendIssue hs).1 hphase
        exact chunkSize_padded_le hcap
      refine (hsame.writeScratch fun hi => ?_).writeSamples fun hi => ?_
      · rw [length_chunkBytes]
        exact hfits hi
      · rw [length_chunkWords]
        have hpad := hfits hi
        have hcs : s.pop.chunkSize = s.chunkSize := rfl
        omega
  | rxOk n d h hb hd ht hn | rxOkAnalyze n d h hb hd ht hn =>
    refine hsame.writeScratch fun hi => ?_
    obtain ⟨-, -, hphase, -⟩ := hi
    exact hn.trans (hphase.receive_fits ht)
  | _ => simpa [receiveErr, advanceChunk, transmitOk, transmitErr, receiveRequest, analyseAction] using hsame

/-- Settles O53: power-on reset lists nothing, and every other step only writes. -/
theorem stepKeepsMemoryCanonical : Obligations.StepKeepsMemoryCanonical := by
  unfold Obligations.StepKeepsMemoryCanonical
  intro s t hwf h
  by_cases hp : s.inputs.head? = some .powerOnReset
  · rw [step_powerOn hp] at h
    cases h
    rfl
  · exact ((step_cases h).writesOnly hp).wf hwf

/-- Settles O56: a payload byte is none that a sound busy block may write. -/
theorem payloadIsStableWhileBusy : Obligations.PayloadIsStableWhileBusy := by
  unfold Obligations.PayloadIsStableWhileBusy
  intro s t hs hb hp h a ha
  refine ((step_cases h).writesOnly hp).kept a fun hmay => ?_
  have := (hmay hs).2 hb
  unfold payloadBase at this
  omega

/-! ### The error registers -/

/-- The error registers depend on bit 1 of IRQ_STATUS alone (R46). -/
theorem State.ErrorOk.congr {s t : State} (h : s.ErrorOk) (hcode : t.errCode = s.errCode) (hovf : t.errOvf = s.errOvf)
    (hcmd : t.errCmd = s.errCmd) (hirq : t.irqStatus &&& 0b0010#4 = s.irqStatus &&& 0b0010#4) : t.ErrorOk := by
  unfold State.ErrorOk
  rw [hcode, hovf, hcmd, hirq]
  exact h

/-- Raising an error leaves them consistent (R402). -/
theorem cmdError_errorOk {code : ErrCode} (hc : code ≠ .noError) (info : Word) (s : State) :
    (cmdError code info s).ErrorOk := by
  have hset : ∀ x : BitVec 4, (x ||| irqErr) &&& 0b0010#4 ≠ 0 := by decide
  unfold cmdError State.ErrorOk
  split
  · exact ⟨⟨fun he => absurd he hc, fun hz => absurd hz (hset _)⟩, fun he => absurd he hc⟩
  · exact ⟨⟨fun he => absurd he ‹_›, fun hz => absurd hz (hset _)⟩, fun he => absurd he ‹_›⟩

/-- Acknowledging keeps them consistent: bit 1 clears all of them together (R46, R407). -/
theorem State.ErrorOk.acknowledge {s : State} (h : s.ErrorOk) (ones : BitVec 4) : (acknowledge ones s).ErrorOk := by
  have hkept : ∀ x o : BitVec 4, o &&& irqErr = 0 → x &&& ~~~o &&& 0b0010#4 = x &&& 0b0010#4 := by decide
  have hcleared : ∀ x o : BitVec 4, o &&& irqErr ≠ 0 → x &&& ~~~o &&& 0b0010#4 = 0 := by decide
  by_cases ho : ones &&& irqErr = 0
  · exact h.congr (by simp [ho]) (by simp [ho]) (by simp [ho]) (by simpa using hkept _ _ ho)
  · unfold State.ErrorOk
    rw [acknowledge_errCode, acknowledge_errOvf, acknowledge_errCmd, acknowledge_irqStatus]
    simp only [if_neg ho, hcleared _ _ ho, implies_true, and_self]

/-- After either reset no error is recorded (R451). -/
theorem powerOn_errorOk (p : Params) : (State.powerOn p).ErrorOk :=
  ⟨by simp [State.powerOn], fun _ => ⟨rfl, rfl⟩⟩

/-- Host accesses keep the error registers consistent. -/
theorem BusStep.errorOk {s t : State} {a : HostAccess} (h : BusStep s a t) (he : s.ErrorOk) : t.ErrorOk := by
  cases h with
  | dropped g h hb => exact cmdError_errorOk (by decide) _ _
  | acknowledge g h => exact State.ErrorOk.acknowledge (s := s.answerHost .ack) he _
  | config r h hi => simpa [setConfig_eq] using he
  | softReset h hi hv => exact powerOn_errorOk s.params
  | _ => exact he

/-! The other bits of IRQ_STATUS are set without touching the error bit (R46). -/

@[simp] theorem or_irqDone_and : ∀ x : BitVec 4, (x ||| irqDone) &&& 0b0010#4 = x &&& 0b0010#4 := by decide
@[simp] theorem or_irqTxf_and : ∀ x : BitVec 4, (x ||| irqTxf) &&& 0b0010#4 = x &&& 0b0010#4 := by decide
@[simp] theorem or_irqRxf_and : ∀ x : BitVec 4, (x ||| irqRxf) &&& 0b0010#4 = x &&& 0b0010#4 := by decide

/-- Every step keeps the error registers consistent. -/
theorem StepOf.errorOk {s t : State} (h : StepOf s t) (he : s.ErrorOk) : t.ErrorOk := by
  cases h with
  | powerOn h => exact powerOn_errorOk s.params
  | bus a h hc => exact (busStep_hostAccess a s).errorOk he
  | refuse c w code h hc => exact cmdError_errorOk hc w _
  | sendIssue h hs hd =>
    unfold sendIssueStep
    split
    · exact he.congr rfl rfl rfl (or_irqDone_and _)
    · exact he.congr rfl rfl rfl rfl
  | _ =>
    refine he.congr ?_ ?_ ?_ ?_ <;>
      simp [packAction, unpackAction, analyseAction, advanceChunk, transmitOk, transmitErr, receiveRequest, receiveOk,
        receiveErr, toRxAnalyze]

/-- Settles O40, by the cases of `StepOf`. -/
theorem stepKeepsErrorsConsistent : Obligations.StepKeepsErrorsConsistent :=
  fun _ _ he h => (step_cases h).errorOk he

/-! ### The report log -/

/-- Every step but power-on reset appends at most one frame (R84). -/
theorem StepOf.reports {s t : State} (h : StepOf s t) (hp : s.inputs.head? ≠ some .powerOnReset) :
    ∃ fs : List Report, fs.length ≤ 1 ∧ t.reports = s.reports ++ fs := by
  have hone : ∀ r : Report, ∃ fs : List Report, fs.length ≤ 1 ∧ s.reports ++ [r] = s.reports ++ fs :=
    fun r => ⟨[r], by simp⟩
  cases h with
  | powerOn h => exact absurd h hp
  | bus a h hc => exact ⟨[], by simp [(busStep_hostAccess a s).frame]⟩
  | sendIssue h hs hd => exact ⟨[], by unfold sendIssueStep; split <;> simp [prepareChunk]⟩
  | analyze | rxAnalyze | txOk | txErr | rxOk | rxOkAnalyze | rxErr => exact hone _
  | _ => exact ⟨[], by simp [packAction, unpackAction, receiveRequest]⟩

/-- Settles O54, by the cases of `StepOf`, and power-on reset on its own. -/
theorem reportLogOnlyGrows : Obligations.ReportLogOnlyGrows := by
  unfold Obligations.ReportLogOnlyGrows
  intro s t h
  refine ⟨(step_cases h).reports, fun hp => ?_⟩
  rw [step_powerOn hp] at h
  cases h
  rfl

end Sys2Proof.Machine
end

section
/-! The statistics registers: which steps change them, and their ranges. -/

namespace Sys2Proof.Machine

/-! ### The statistics registers -/

/-- The present step is the analysis of `l` bytes: the EXEC step of ANALYZE, or the RX_ANALYZE step (R310, R277). -/
def State.Analyses (s : State) (l : Nat) : Prop :=
  s.blockTurn = true ∧ ((s.seqState = .exec ∧ s.current = .command (.analyze l)) ∨
    (s.seqState = .rxAnalyze ∧ l = s.blockBytes.toNat))

/-- The present step is a reset: the reset input, or a write of CTRL with bit 0 set at an idle block (R450, R452). -/
def State.Resets (s : State) : Prop :=
  s.inputs.head? = some .powerOnReset ∨
    (s.seqState = .idle ∧ ∃ v, s.inputs.head? = some (.host (.write .word 0x00000004 v)) ∧ v.getLsbD 0 = true)

/-- The statistics of `t` are those of `s`, or those of an analysis in `s`, or those of a reset. -/
def StatsChange (s t : State) : Prop :=
  (t.stats = s.stats ∧ t.statsValid = s.statsValid) ∨
    (∃ l, s.Analyses l ∧ t.stats = s.statsFor (s.readScratch l) ∧ t.statsValid = true) ∨
    (s.Resets ∧ t.stats = AudioStats.empty ∧ t.statsValid = false)

/-- A host access changes the statistics by a soft reset only. -/
theorem BusStep.statsChange {s t : State} {a : HostAccess} (h : BusStep s a t)
    (ha : s.inputs.head? = some (.host a)) : StatsChange s t := by
  cases h with
  | softReset h hi hv =>
    obtain ⟨rfl, rfl⟩ := eq_offset_of_busTarget h
    exact .inr (.inr ⟨.inr ⟨hi, _, ha, hv⟩, rfl, rfl⟩)
  | config r h hi => exact .inl (by simp [setConfig_eq])
  | window h hi => exact .inl ⟨rfl, rfl⟩
  | _ => exact .inl (by simp)

/-- What a step does to the statistics registers (R213, R320). -/
theorem StepOf.statsChange {s t : State} (h : StepOf s t) : StatsChange s t := by
  cases h with
  | powerOn h => exact .inr (.inr ⟨.inl h, rfl, rfl⟩)
  | bus a h hc => exact (busStep_hostAccess a s).statsChange h
  | analyze l h hs hd => exact .inr (.inl ⟨l, ⟨h, .inl ⟨hs, hd⟩⟩, rfl, rfl⟩)
  | rxAnalyze h hs hd => exact .inr (.inl ⟨_, ⟨h, .inr ⟨hs, rfl⟩⟩, rfl, rfl⟩)
  | sendIssue h hs hd => exact .inl (by unfold sendIssueStep; split <;> simp [prepareChunk])
  | _ =>
    exact .inl (by simp [packAction, unpackAction, advanceChunk, transmitOk, transmitErr, receiveRequest, receiveOk,
      receiveErr, toRxAnalyze])

/-- Settles O57: the two changes of `StatsChange` are the analyses and the resets. -/
theorem onlyAnalysesAndResetsChangeStatistics : Obligations.OnlyAnalysesAndResetsChangeStatistics := by
  unfold Obligations.OnlyAnalysesAndResetsChangeStatistics
  intro s t h hne
  rcases (step_cases h).statsChange with ⟨hstats, hvalid⟩ | ⟨l, ⟨hb, ⟨hs, hd⟩ | ⟨hs, -⟩⟩, -⟩ | ⟨hreset, -⟩
  · rcases hne with hne | hne
    · exact absurd hstats hne
    · exact absurd hvalid hne
  · exact .inl ⟨hb, hs, l, hd⟩
  · exact .inr (.inl ⟨hb, hs⟩)
  · exact .inr (.inr hreset)

/-- The statistics of a block that fits scratch lie in the ranges of R65 to R70. -/
theorem statsFor_ranges (s : State) {bytes : List Byte} {n : Nat} (hn : bytes.length ≤ n) (hmax : n ≤ 65536) :
    (s.statsFor bytes).sampleCount.toNat ≤ n / 2 ∧
      (s.statsFor bytes).activeCount.toNat ≤ (s.statsFor bytes).sampleCount.toNat ∧
      (s.statsFor bytes).sumAbs.toNat ≤ 32768 * (s.statsFor bytes).sampleCount.toNat ∧
      (s.statsFor bytes).maxAbs.toNat ≤ 32768 ∧ (s.statsFor bytes).avgAbs.toNat ≤ 32768 ∧
      -32768 ≤ (s.statsFor bytes).minRaw.toInt ∧ (s.statsFor bytes).minRaw.toInt ≤ 32767 := by
  have hb := samplesOf_bounds s.byteOrder bytes
  have hlen := length_samplesOf s.byteOrder bytes
  have hactive := activeOf_le s.noiseThr.toNat (samplesOf s.byteOrder bytes)
  have hsum := sumOf_le hb
  have hmaxAbs := maxAbsOf_le hb
  have havg := avgOf_le hb
  have hmin := minOf_bounds hb
  simp only [State.statsFor, statsOf, toInt_signExtend_minimum hmin, BitVec.toNat_ofNat]
  omega

/-- What an analysis reads fits scratch (R201, R206). -/
theorem State.Analyses.fits {s : State} {l : Nat} (h : s.Analyses l) (hp : s.PhaseOk) : l ≤ s.params.scratchBytes := by
  obtain ⟨-, ⟨hs, hd⟩ | ⟨hs, rfl⟩⟩ := h
  · obtain ⟨⟨-, -, hcap⟩, hl⟩ := hp.analyze hs hd
    exact hl.trans hcap
  · obtain ⟨-, -, ⟨-, -, hcap⟩, hblock⟩ := (phaseOk_rxAnalyze hs).1 hp
    exact hblock.trans hcap

/-- Every step from a sound state keeps the statistics in their ranges. -/
theorem StepOf.statsOk {s t : State} (h : StepOf s t) (hs : s.Inv) (hparams : t.params = s.params) : t.StatsOk := by
  obtain ⟨⟨-, -, hmax, -⟩, -, hphase, -, hstats⟩ := hs
  rcases h.statsChange with ⟨hst, hv⟩ | ⟨l, ha, hst, hv⟩ | ⟨-, hst, hv⟩
  · unfold State.StatsOk
    rw [hst, hv, hparams]
    exact hstats
  · obtain ⟨hcount, hactive, hsum, hmaxAbs, havg, hmin⟩ :=
      statsFor_ranges s (bytes := s.readScratch l) (n := s.params.scratchBytes)
        (by rw [length_readScratch]; exact ha.fits hphase) hmax
    unfold State.StatsOk
    rw [hst, hv, hparams]
    exact ⟨hcount, hactive, hsum, hmaxAbs, havg, hmin.1, hmin.2, by simp⟩
  · have hempty := powerOn_statsOk s.params
    unfold State.StatsOk at hempty ⊢
    rw [hst, hv, hparams]
    exact hempty

end Sys2Proof.Machine
end

section
/-! SEQ_STATE, the latched command and TREQ after a step, phase by phase, and from it the invariant. -/

namespace Sys2Proof.Machine

/-! ### Steps that leave the phase alone -/

/-- `t` agrees with `s` on every field that `PhaseOk` speaks of. -/
structure SamePhase (s t : State) : Prop where
  seqState : t.seqState = s.seqState
  curOp : t.curOp = s.curOp
  curArg : t.curArg = s.curArg
  curCs : t.curCs = s.curCs
  treq : t.treq = s.treq
  capacity : t.capacity = s.capacity
  blockBytes : t.blockBytes = s.blockBytes
  payloadLen : t.payloadLen = s.payloadLen
  params : t.params = s.params
  pos : t.pos = s.pos
  bytesSent : t.bytesSent = s.bytesSent
  chunkIndex : t.chunkIndex = s.chunkIndex
  txFails : t.txFails = s.txFails

theorem State.PhaseOk.congr {s t : State} (h : s.PhaseOk) (e : SamePhase s t) : t.PhaseOk := by
  unfold State.PhaseOk State.ExecOk State.SendProgress State.ReceiveOk State.capOk State.chunkSize State.current
  rw [e.seqState, e.curOp, e.curArg, e.curCs, e.treq, e.capacity, e.blockBytes, e.payloadLen, e.params, e.pos,
    e.bytesSent, e.chunkIndex, e.txFails]
  exact h

/-- A rejected issue leaves the phase alone (R402). -/
theorem samePhase_cmdError (code : ErrCode) (w : Word) (s : State) :
    SamePhase s (cmdError code w (s.answerHost .ack)) := by
  constructor <;> simp

/-- A host access keeps the phase: a busy block's it leaves alone, an idle block stays idle (R209, R212). -/
theorem hostAccess_phaseOk {s : State} (a : HostAccess) (h : s.PhaseOk) : (hostAccess a s).PhaseOk := by
  by_cases hi : s.seqState = .idle
  · obtain ⟨hi', ht'⟩ := hostAccess_idle (a := a) hi ((phaseOk_idle hi).1 h)
    exact (phaseOk_idle hi').2 ht'
  · obtain ⟨h1, h2, h3, h4, h5, h6, h7, h8, h9, h10, h11, h12, h13, -⟩ := hostAccess_frame_busy (a := a) hi
    exact h.congr ⟨h1, h2, h3, h4, h5, h6, h7, h8, h9, h10, h11, h12, h13⟩

/-- A completed command leaves the block idle without a request (R210). -/
theorem complete_phaseOk {s : State} (ht : s.treq = .none) : (complete s).PhaseOk := (phaseOk_idle rfl).2 ht

/-! ### The issue of a command -/

/-- A word that decodes to a command is the command's encoding (R150, R153). -/
theorem encode_of_decode {c : Word} {i : Instr} (h : decode c = .command i) : encode i = c := by
  have hfields : i.op = opField c ∧ BitVec.ofNat 24 i.arg = argField c := by
    rcases decode_cases h with ⟨ho, ha, rfl⟩ | ⟨ho, rfl⟩ | ⟨ho, rfl⟩ | ⟨ho, ha, rfl⟩ | ⟨ho, ha, rfl⟩ | ⟨ho, ha, rfl⟩ |
      ⟨ho, rfl⟩ <;> simp [Instr.op, Instr.arg, *]
  unfold encode
  rw [hfields.1, hfields.2, argField_append_opField]

/-- The latches of a started command hold it (R205). -/
theorem start_current {c : Word} {i : Instr} (h : decode c = .command i) (s : State) :
    (start i s).current = .command i := by
  have hword : decode (encode i) = .command i := (encode_of_decode h).symm ▸ h
  exact hword

/-- An issue that raises no error finds an idle block, a legal configuration and a legal argument (R201). -/
theorem issueError_eq_noError {i : Instr} {s : State} (h : issueError i s = .noError) :
    s.seqState = .idle ∧ badConfig i s = false ∧ badArg i s = false := by
  unfold issueError at h
  split at h
  · cases h
  · split at h
    · cases h
    · split at h
      · cases h
      · simp_all [State.busy]

/-- A started command other than SEND meets what its first state needs (R201, R205). -/
theorem start_phaseOk {c : Word} {i : Instr} {s : State} (hp : s.PhaseOk) (hd : decode c = .command i)
    (hsend : i ≠ .send) (he : issueError i s = .noError) : (start i (s.answerHost .ack)).PhaseOk := by
  obtain ⟨hi, hconfig, harg⟩ := issueError_eq_noError he
  have ht : (start i (s.answerHost .ack)).treq = .none := (phaseOk_idle hi).1 hp
  have hcur := start_current hd (s.answerHost .ack)
  cases i with
  | nop =>
    refine (phaseOk_exec rfl).2 ⟨ht, ?_⟩
    simp only [State.ExecOk, hcur]
  | pack l | analyze l | unpack k =>
    have hcap : s.capOk := by simpa [badConfig] using hconfig
    refine (phaseOk_exec rfl).2 ⟨ht, ?_⟩
    simp only [State.ExecOk, hcur]
    exact ⟨hcap, by simpa [badArg] using harg⟩
  | send => exact absurd rfl hsend
  | recv | recvAnalyze =>
    have hrx : s.ReceiveOk := by simpa [badConfig] using hconfig
    exact (phaseOk_rxIssue rfl).2 ⟨ht, by simp [hcur], hrx⟩

/-- A started SEND stands at the beginning of a payload that fits (R201, R264). -/
theorem startSend_phaseOk {c : Word} {s : State} (hp : s.PhaseOk) (hd : decode c = .command .send)
    (he : issueError .send s = .noError) : (clearSendCounters (start .send (s.answerHost .ack))).PhaseOk := by
  obtain ⟨hi, hconfig, -⟩ := issueError_eq_noError he
  have hconfig' : s.capOk ∧ s.payloadLen.toNat ≤ s.params.payloadBytes := by simpa [badConfig] using hconfig
  refine (phaseOk_sendIssue rfl).2 ⟨(phaseOk_idle hi).1 hp, start_current hd (s.answerHost .ack), hconfig'.1, ?_⟩
  simp [State.SendProgress, hconfig'.2]

/-! ### The SEND cycle -/

/-- `State.SendProgress` in numbers: `n` payload bytes, capacity `c`, cursor `p`, chunk index `k`, `b` bytes sent
and `f` failures. -/
def Progress (n c p k b f : Nat) : Prop :=
  p ≤ n ∧ (p = k * c ∨ (p = n ∧ k = (n + c - 1) / c)) ∧ k ≤ p ∧ b ≤ p ∧ f ≤ k ∧ (f = 0 → b = p) ∧ (f = k → b = 0)

theorem sendProgress_iff (s : State) :
    s.SendProgress ↔ s.payloadLen.toNat ≤ s.params.payloadBytes ∧
      Progress s.payloadLen.toNat s.capacity.toNat s.pos.toNat s.chunkIndex.toNat s.bytesSent.toNat
        s.txFails.toNat := by
  simp only [State.SendProgress, Progress, ← BitVec.toNat_inj, BitVec.ofNat_eq_ofNat, BitVec.toNat_ofNat,
    Nat.zero_mod]

/-- One answered chunk moves the cursor to the end of chunk `k` (R268, R269): by the capacity, or to the payload's end
after `ceil(n / c)` chunks. -/
theorem cursor_advance {n c p k : Nat} (hp : p = k * c) (hlt : p < n) :
    p + min (n - p) c = (k + 1) * c ∨ (p + min (n - p) c = n ∧ k + 1 = (n + c - 1) / c) := by
  have hmul : (k + 1) * c = k * c + c := Nat.succ_mul k c
  rcases Nat.le_total c (n - p) with hle | hle
  · left
    rw [Nat.min_eq_right hle]
    omega
  · right
    rw [Nat.min_eq_left hle]
    refine ⟨by omega, (Nat.div_eq_of_lt_le ?_ ?_).symm⟩
    · omega
    · rw [Nat.succ_mul (k + 1)]
      omega

/-- An answered chunk keeps the progress, whether it is sent (`b` grows) or lost (`f` grows) (R266 to R268). -/
theorem Progress.advance {n c p k b f b' f' : Nat} (h : Progress n c p k b f) (hc : 2 ≤ c) (hlt : p < n)
    (ho : (b' = b + min (n - p) c ∧ f' = f) ∨ (b' = b ∧ f' = f + 1)) :
    Progress n c (p + min (n - p) c) (k + 1) b' f' := by
  obtain ⟨hpn, hcursor, hkp, hbp, hfk, hall, hnone⟩ := h
  have hp : p = k * c := by
    rcases hcursor with hp | ⟨hend, -⟩
    · exact hp
    · omega
  have hcursor' := cursor_advance hp hlt
  have hpos : 1 ≤ min (n - p) c := by omega
  have hle : min (n - p) c ≤ n - p := Nat.min_le_left _ _
  refine ⟨by omega, hcursor', by omega, ?_, ?_, ?_, ?_⟩ <;> omega

/-- The chunk that SEND prepares is outstanding, and its size is CUR_CS (R265). -/
theorem prepareChunk_phaseOk {s : State} (ht : s.current = .command .send) (hcap : s.capOk) (hprog : s.SendProgress)
    (hne : s.pos ≠ s.payloadLen) : (prepareChunk s).PhaseOk := by
  have hcs : (BitVec.ofNat 32 s.chunkSize).toNat = s.chunkSize := by
    rw [BitVec.toNat_ofNat]
    exact Nat.mod_eq_of_lt ((chunkSize_le_capacity s).trans_lt s.capacity.isLt)
  have hlt : s.pos.toNat < s.payloadLen.toNat :=
    lt_of_le_of_ne hprog.2.1 fun h => hne (BitVec.eq_of_toNat_eq h)
  refine (phaseOk_txWait rfl).2 ⟨⟨s.chunkWords, rfl, ?_⟩, ht, hcap, hprog, hlt, hcs⟩
  rw [length_chunkWords]
  exact congrArg (fun n => (n + 1) / 2) hcs.symm

/-- The end of a TX_WAIT answer step goes back to SEND_ISSUE with the progress kept; no 32-bit sum of it wraps, since
the payload memory has at most 2^24 bytes (R11, R268). -/
theorem advanceChunk_phaseOk {s : State} {b f : Word} (hlegal : s.params.Legal) (hp : s.PhaseOk)
    (hs : s.seqState = .txWait)
    (ho : (b = s.bytesSent + s.curCs ∧ f = s.txFails) ∨ (b = s.bytesSent ∧ f = s.txFails + 1)) :
    (advanceChunk { s with bytesSent := b, txFails := f }).PhaseOk := by
  obtain ⟨-, hcur, hcap, hprog, hlt, hcs⟩ := (phaseOk_txWait hs).1 hp
  obtain ⟨hfits, hprog⟩ := (sendProgress_iff s).1 hprog
  obtain ⟨-, -, -, hmax⟩ := hlegal
  obtain ⟨-, hc, -⟩ := id hcap
  unfold State.chunkSize at hcs
  have hbounds : s.chunkIndex.toNat ≤ s.pos.toNat ∧ s.bytesSent.toNat ≤ s.pos.toNat ∧
      s.txFails.toNat ≤ s.chunkIndex.toNat := by
    obtain ⟨-, -, hk, hb, hf, -⟩ := hprog
    exact ⟨hk, hb, hf⟩
  have hpos : (s.pos + s.curCs).toNat = s.pos.toNat + min (s.payloadLen.toNat - s.pos.toNat) s.capacity.toNat := by
    rw [BitVec.toNat_add, hcs]
    omega
  have hindex : (s.chunkIndex + 1).toNat = s.chunkIndex.toNat + 1 := by
    rw [BitVec.toNat_add]
    exact Nat.mod_eq_of_lt (by simp; omega)
  have hcounts : (b.toNat = s.bytesSent.toNat + min (s.payloadLen.toNat - s.pos.toNat) s.capacity.toNat ∧
      f.toNat = s.txFails.toNat) ∨ (b.toNat = s.bytesSent.toNat ∧ f.toNat = s.txFails.toNat + 1) := by
    rcases ho with ⟨rfl, rfl⟩ | ⟨rfl, rfl⟩
    · refine .inl ⟨?_, rfl⟩
      rw [BitVec.toNat_add, hcs]
      omega
    · refine .inr ⟨rfl, ?_⟩
      rw [BitVec.toNat_add]
      exact Nat.mod_eq_of_lt (by simp; omega)
  refine (phaseOk_sendIssue rfl).2 ⟨rfl, hcur, hcap, (sendProgress_iff _).2 ⟨hfits, ?_⟩⟩
  have hnext := hprog.advance hc hlt hcounts
  rw [← hpos, ← hindex] at hnext
  exact hnext

/-- Every step from a sound state keeps SEQ_STATE, the latched command and TREQ in agreement. -/
theorem StepOf.phaseOk {s t : State} (h : StepOf s t) (hs : s.Inv) : t.PhaseOk := by
  have hs' := hs
  obtain ⟨hlegal, -, hp, -, -⟩ := hs'
  cases h with
  | pass h => exact hp.congr (by constructor <;> rfl)
  | powerOn h => exact (phaseOk_idle rfl).2 rfl
  | bus a h hc => exact hostAccess_phaseOk a hp
  | refuse c w code h hc => exact hp.congr (samePhase_cmdError code w s)
  | begin c i h hd hi he => exact start_phaseOk hp hd hi he
  | beginSend c h hd he => exact startSend_phaseOk hp hd he
  | nop h hq hd | pack l h hq hd | unpack k h hq hd | analyze l h hq hd =>
    have ht := ((phaseOk_exec hq).1 hp).1
    exact complete_phaseOk (by simp [packAction, unpackAction, analyseAction, ht])
  | rxAnalyze h hq hd => exact complete_phaseOk ((phaseOk_rxAnalyze hq).1 hp).1
  | sendIssue h hq hd =>
    obtain ⟨ht, -, hcap, hprog⟩ := (phaseOk_sendIssue hq).1 hp
    unfold sendIssueStep
    split
    · exact complete_phaseOk ht
    · exact prepareChunk_phaseOk (s := s.pop) hd hcap hprog ‹_›
  | txOk words h hb hd ht =>
    exact (advanceChunk_phaseOk hlegal hp (hp.txWait ht) (.inl ⟨rfl, rfl⟩)).congr
      (by constructor <;> simp [advanceChunk, transmitOk])
  | txErr words h hb hd ht =>
    exact (advanceChunk_phaseOk hlegal hp (hp.txWait ht) (.inr ⟨rfl, rfl⟩)).congr
      (by constructor <;> simp [advanceChunk, transmitErr])
  | rxIssue h hq hd =>
    obtain ⟨-, -, hrx⟩ := (phaseOk_rxIssue hq).1 hp
    exact (phaseOk_rxWait rfl).2 ⟨rfl, hd, hrx⟩
  | rxOk n d h hb hd ht hn => exact complete_phaseOk rfl
  | rxOkAnalyze n d h hb hd ht hn =>
    obtain ⟨-, -, hrx⟩ := (phaseOk_rxWait (hp.rxWait ht).1).1 hp
    have hcur : (toRxAnalyze (receiveOk d s.pop)).current = s.current := by
      simp [State.current, toRxAnalyze, receiveOk]
    exact (phaseOk_rxAnalyze rfl).2 ⟨rfl, hcur.trans hd, hrx⟩
  | rxErr n h hb hd ht => exact complete_phaseOk rfl

/-! ### The invariant -/

/-- No step changes the parameters (R30). -/
theorem StepOf.params {s t : State} (h : StepOf s t) : t.params = s.params := by
  cases h with
  | powerOn h => rfl
  | bus a h hc => exact (busStep_hostAccess a s).frame.2.1
  | sendIssue h hs hd => unfold sendIssueStep; split <;> simp [prepareChunk]
  | _ =>
    simp [packAction, unpackAction, analyseAction, advanceChunk, transmitOk, transmitErr, receiveRequest, receiveOk,
      receiveErr, toRxAnalyze]

/-- Every step from a sound state keeps the memory canonical and lists populated bytes only (R101, R115). -/
theorem step_memoryOk {s t : State} (h : step s = .next t) (hs : s.Inv) : t.MemoryOk := by
  by_cases hp : s.inputs.head? = some .powerOnReset
  · rw [step_powerOn hp] at h
    cases h
    exact ⟨rfl, by simp [powerOnReset, State.powerOn]⟩
  · obtain ⟨-, ⟨hwf, hlisted⟩, -⟩ := id hs
    have hw := (step_cases h).writesOnly hp
    refine ⟨hw.wf hwf, fun x hx => ?_⟩
    rw [(step_cases h).params]
    rcases hw.listed x hx with hx | hmay
    · exact hlisted x hx
    · exact (hmay hs).1

/-- Settles O51: the five parts of the invariant, each kept by every case of `StepOf`. -/
theorem stepKeepsTheInvariant : Obligations.StepKeepsTheInvariant := by
  unfold Obligations.StepKeepsTheInvariant
  intro s t hs h
  have hstep := step_cases h
  obtain ⟨hlegal, -, -, herr, -⟩ := id hs
  refine ⟨⟨?_, step_memoryOk h hs, hstep.phaseOk hs, hstep.errorOk herr, hstep.statsOk hs hstep.params⟩, hstep.params⟩
  rw [hstep.params]
  exact hlegal

end Sys2Proof.Machine
end

section
/-! Whose step does something (R207), and what an idle block's step reads (R80, R81). -/

namespace Sys2Proof.Machine

/-! ### Sequencer and transport turns -/

/-- The sequencer moves: on its own input, or when no input is left. -/
theorem sequencerTurn {s : State} (h : s.inputs = [] ∨ s.inputs.head? = some .sequencer) :
    s.blockTurn = true ∧ s.commandStep = .sequencer := by
  unfold State.blockTurn State.commandStep
  cases hi : s.inputs with
  | nil => exact ⟨rfl, rfl⟩
  | cons x r =>
    obtain rfl : x = .sequencer := by simpa [hi] using h
    exact ⟨rfl, rfl⟩

/-- The transport moves. -/
theorem transportTurn {s : State} {a : Answer} (h : s.inputs.head? = some (.transport a)) :
    s.blockTurn = true ∧ s.commandStep = .answer a := by
  unfold State.blockTurn State.commandStep
  cases hi : s.inputs with
  | nil => simp [hi] at h
  | cons x r =>
    obtain rfl : x = .transport a := by simpa [hi] using h
    exact ⟨rfl, rfl⟩

/-- The latched command of a busy sound block is the one its SEQ_STATE belongs to (R203). -/
inductive Running (s : State) : Instr → Prop
  | inExec (i : Instr) (hs : s.seqState = .exec) (hi : firstState i = .exec) (ht : s.treq = .none) : Running s i
  | sendIssue (hs : s.seqState = .sendIssue) (ht : s.treq = .none) : Running s .send
  | txWait (words : List Half) (hs : s.seqState = .txWait) (ht : s.treq = .transmit words) : Running s .send
  | rxIssue (i : Instr) (hs : s.seqState = .rxIssue) (hi : i = .recv ∨ i = .recvAnalyze) (ht : s.treq = .none) :
      Running s i
  | rxWait (i : Instr) (hs : s.seqState = .rxWait) (hi : i = .recv ∨ i = .recvAnalyze)
      (ht : s.treq = .receive s.blockBytes.toNat) : Running s i
  | rxAnalyze (hs : s.seqState = .rxAnalyze) (ht : s.treq = .none) : Running s .recvAnalyze

/-- The command of an EXEC state is one of the four that start there (R205, R208). -/
theorem State.ExecOk.current {s : State} (h : s.ExecOk) : ∃ i, s.current = .command i ∧ firstState i = .exec := by
  cases hd : s.current with
  | illegal e => simp [State.ExecOk, hd] at h
  | command i =>
    refine ⟨i, rfl, ?_⟩
    cases i <;> simp [State.ExecOk, hd, firstState] at h ⊢

/-- A busy sound block runs a command. -/
theorem State.PhaseOk.running {s : State} (h : s.PhaseOk) (hb : s.seqState ≠ .idle) :
    ∃ i, s.current = .command i ∧ Running s i := by
  cases hs : s.seqState with
  | idle => exact absurd hs hb
  | exec =>
    obtain ⟨ht, hx⟩ := (phaseOk_exec hs).1 h
    obtain ⟨i, hd, hi⟩ := hx.current
    exact ⟨i, hd, .inExec i hs hi ht⟩
  | sendIssue =>
    obtain ⟨ht, hd, -⟩ := (phaseOk_sendIssue hs).1 h
    exact ⟨_, hd, .sendIssue hs ht⟩
  | txWait =>
    obtain ⟨⟨words, ht, -⟩, hd, -⟩ := (phaseOk_txWait hs).1 h
    exact ⟨_, hd, .txWait words hs ht⟩
  | rxIssue =>
    obtain ⟨ht, hd | hd, -⟩ := (phaseOk_rxIssue hs).1 h
    · exact ⟨_, hd, .rxIssue _ hs (.inl rfl) ht⟩
    · exact ⟨_, hd, .rxIssue _ hs (.inr rfl) ht⟩
  | rxWait =>
    obtain ⟨ht, hd | hd, -⟩ := (phaseOk_rxWait hs).1 h
    · exact ⟨_, hd, .rxWait _ hs (.inl rfl) ht⟩
    · exact ⟨_, hd, .rxWait _ hs (.inr rfl) ht⟩
  | rxAnalyze =>
    obtain ⟨ht, hd, -⟩ := (phaseOk_rxAnalyze hs).1 h
    exact ⟨_, hd, .rxAnalyze hs ht⟩

/-- The EXEC step of a command that starts in EXEC completes it, and no transport answer touches it (R208). -/
theorem exec_of_firstState {i : Instr} {s : State} (hi : firstState i = .exec) :
    (s.commandStep = .sequencer → s.seqState = .exec → ∃ t, exec i s = .next t ∧ t.seqState = .idle) ∧
      ∀ a, s.commandStep = .answer a → exec i s = .next s.pop := by
  cases i with
  | nop | pack l | unpack k | analyze l =>
    constructor
    · intro hc hs
      simp [exec, execNop, execPack, execUnpack, execAnalyze, execStep, hc, hs]
    · intro a hc
      simp [exec, execNop, execPack, execUnpack, execAnalyze, hc]
  | send | recv | recvAnalyze => cases hi

/-- In the two WAIT states the sequencer's turn passes (R207). -/
theorem Running.sequencer_waits {s : State} {i : Instr} (h : Running s i) (hc : s.commandStep = .sequencer)
    (hw : s.seqState = .txWait ∨ s.seqState = .rxWait) : exec i s = .next s.pop := by
  cases h with
  | txWait words hs ht => simp [exec, execSend, hc, sendTurn, otherTurn, State.sequencerEnabled, hs]
  | rxWait i hs hi ht =>
    rcases hi with rfl | rfl <;>
      simp [exec, execRecv, execRecvAnalyze, hc, recvTurn, recvAnalyzeTurn, otherTurn, State.sequencerEnabled, hs]
  | inExec i hs | sendIssue hs | rxIssue i hs | rxAnalyze hs => simp [hs] at hw

/-- Outside them it moves SEQ_STATE (R203). -/
theorem Running.sequencer_moves {s : State} {i : Instr} (h : Running s i) (hc : s.commandStep = .sequencer)
    (hw : s.seqState ≠ .txWait ∧ s.seqState ≠ .rxWait) : ∃ t, exec i s = .next t ∧ t.seqState ≠ s.seqState := by
  cases h with
  | inExec i hs hi ht =>
    obtain ⟨t, he, hidle⟩ := (exec_of_firstState hi).1 hc hs
    exact ⟨t, he, by simp [hidle, hs]⟩
  | sendIssue hs ht =>
    refine ⟨sendIssueStep s.pop, by simp [exec, execSend, hc, sendTurn, hs], ?_⟩
    unfold sendIssueStep
    split <;> simp [prepareChunk, hs]
  | rxIssue i hs hi ht =>
    refine ⟨receiveRequest s.pop, ?_, by simp [receiveRequest, hs]⟩
    rcases hi with rfl | rfl <;> simp [exec, execRecv, execRecvAnalyze, hc, recvTurn, recvAnalyzeTurn, hs]
  | rxAnalyze hs ht =>
    exact ⟨complete (analyseAction s.blockBytes.toNat s.pop), by simp [exec, execRecvAnalyze, hc, recvAnalyzeTurn, hs],
      by simp [hs]⟩
  | txWait words hs | rxWait i hs => simp [hs] at hw

/-- Without an outstanding request a transport answer passes (R262). -/
theorem Running.answer_passes {s : State} {i : Instr} {a : Answer} (h : Running s i) (hc : s.commandStep = .answer a)
    (ht : s.treq = .none) : exec i s = .next s.pop := by
  cases h with
  | inExec i hs hi => exact (exec_of_firstState hi).2 a hc
  | sendIssue => simp [exec, execSend, hc, sendAnswer, ht]
  | rxIssue i hs hi => rcases hi with rfl | rfl <;> simp [exec, execRecv, execRecvAnalyze, hc, receiveAnswer, ht]
  | rxAnalyze => simp [exec, execRecvAnalyze, hc, receiveAnswer, ht]
  | txWait words hs h' => rw [ht] at h'; cases h'
  | rxWait i hs hi h' => rw [ht] at h'; cases h'

/-- An answer to a transmit request moves SEND on (R266 to R268). -/
theorem Running.answer_transmit {s : State} {i : Instr} {a : Answer} (h : Running s i)
    (hc : s.commandStep = .answer a) (hs : s.seqState = .txWait) (ha : a = .txOk ∨ a = .txErr) :
    ∃ t, exec i s = .next t ∧ t.seqState ≠ s.seqState := by
  cases h with
  | txWait words _ ht =>
    rcases ha with rfl | rfl
    · exact ⟨advanceChunk (transmitOk s.pop), by simp [exec, execSend, hc, sendAnswer, ht], by simp [advanceChunk, hs]⟩
    · exact ⟨advanceChunk (transmitErr s.pop), by simp [exec, execSend, hc, sendAnswer, ht], by simp [advanceChunk, hs]⟩
  | inExec i hs' | sendIssue hs' | rxIssue i hs' | rxWait i hs' | rxAnalyze hs' => rw [hs] at hs'; cases hs'

/-- An answer to a receive request moves RECV and RECV_ANALYZE on (R273, R274). -/
theorem Running.answer_receive {s : State} {i : Instr} {a : Answer} (h : Running s i)
    (hc : s.commandStep = .answer a) (hs : s.seqState = .rxWait)
    (ha : a = .rxErr ∨ ∃ d, a = .rxOk d ∧ d.length ≤ s.blockBytes.toNat) :
    ∃ t, exec i s = .next t ∧ t.seqState ≠ s.seqState := by
  cases h with
  | rxWait i _ hi ht =>
    rcases hi with rfl | rfl <;> rcases ha with rfl | ⟨d, rfl, hn⟩
    · exact ⟨receiveErr s.pop, by simp [exec, execRecv, hc, receiveAnswer, ht], by simp [receiveErr, hs]⟩
    · exact ⟨complete (receiveOk d s.pop), by simp [exec, execRecv, hc, receiveAnswer, ht, hn], by simp [hs]⟩
    · exact ⟨receiveErr s.pop, by simp [exec, execRecvAnalyze, hc, receiveAnswer, ht], by simp [receiveErr, hs]⟩
    · exact ⟨toRxAnalyze (receiveOk d s.pop), by simp [exec, execRecvAnalyze, hc, receiveAnswer, ht, hn],
        by simp [toRxAnalyze, hs]⟩
  | inExec i hs' | sendIssue hs' | txWait i hs' | rxIssue i hs' | rxAnalyze hs' => rw [hs] at hs'; cases hs'

/-- Settles O9: TREQ by the phase, then each turn is a turn of the running command, or passes while IDLE. -/
theorem onlyEnabledAgentsStep : Obligations.OnlyEnabledAgentsStep := by
  unfold Obligations.OnlyEnabledAgentsStep
  rintro s ⟨-, -, hp, -⟩
  refine ⟨?_, fun h hq => ?_, fun a h hq => ?_, fun h hq => ?_, fun a h hq => ?_, fun a h => ?_⟩
  · rcases hp.treq_eq with ⟨hs, words, ht⟩ | ⟨hs, ht⟩ | ⟨h1, h2, ht⟩ <;> simp [*]
  · obtain ⟨hturn, hc⟩ := sequencerTurn h
    by_cases hi : s.seqState = .idle
    · exact step_idle hturn hi
    · obtain ⟨i, hd, hrun⟩ := hp.running hi
      rw [step_busy hturn hi hd]
      exact hrun.sequencer_waits hc (by simpa [hi] using hq)
  · obtain ⟨hturn, hc⟩ := transportTurn h
    by_cases hi : s.seqState = .idle
    · exact step_idle hturn hi
    · obtain ⟨i, hd, hrun⟩ := hp.running hi
      rw [step_busy hturn hi hd]
      refine hrun.answer_passes hc ?_
      rcases hp.treq_eq with ⟨hs, -⟩ | ⟨hs, -⟩ | ⟨-, -, ht⟩
      · simp [hs] at hq
      · simp [hs] at hq
      · exact ht
  · obtain ⟨hturn, hc⟩ := sequencerTurn h
    have hi : s.seqState ≠ .idle := fun hi => by simp [hi] at hq
    obtain ⟨i, hd, hrun⟩ := hp.running hi
    rw [step_busy hturn hi hd]
    exact hrun.sequencer_moves hc (by simpa [hi] using hq)
  · obtain ⟨hturn, hc⟩ := transportTurn h
    have hi : s.seqState ≠ .idle := by rcases hq with ⟨hs, -⟩ | ⟨hs, -⟩ <;> simp [hs]
    obtain ⟨i, hd, hrun⟩ := hp.running hi
    rw [step_busy hturn hi hd]
    rcases hq with ⟨hs, ha⟩ | ⟨hs, ha⟩
    · exact hrun.answer_transmit hc hs ha
    · exact hrun.answer_receive hc hs ha
  · obtain ⟨t, ht, hresp, -⟩ := step_host h
    exact ⟨t, ht, hresp⟩

/-! ### The latches of an idle block -/

/-- The state with other contents of the latches CUR_OP, CUR_ARG and CUR_CS (R80, R81). -/
def State.withLatches (op : BitVec 8) (arg : BitVec 24) (cs : Word) (s : State) : State :=
  { s with curOp := op, curArg := arg, curCs := cs }

/-- The two states agree up to the latches. -/
def SameButLatches (u t : State) : Prop := u.withLatches 0 0 0 = t.withLatches 0 0 0

/-- No register shows a latch. -/
theorem readReg_withLatches (op : BitVec 8) (arg : BitVec 24) (cs : Word) (s : State) (r : Reg) :
    readReg (s.withLatches op arg cs) r = readReg s r := by
  cases r <;> rfl

/-- Raising an error does not depend on the latches. -/
theorem cmdError_withLatches (code : ErrCode) (w : Word) (op : BitVec 8) (arg : BitVec 24) (cs : Word) (s : State) :
    cmdError code w (s.withLatches op arg cs) = (cmdError code w s).withLatches op arg cs := by
  unfold cmdError
  split <;> simp_all [State.withLatches]

section Latches

variable {s : State} (op : BitVec 8) (arg : BitVec 24) (cs : Word)

/-- A register write at an idle block does not depend on the latches. -/
theorem writeReg_sameButLatches (hi : s.seqState = .idle) (r : Reg) (addr v : Word) :
    SameButLatches (writeReg r addr v (s.withLatches op arg cs)) (writeReg r addr v s) := by
  have hi' : (s.withLatches op arg cs).seqState = .idle := hi
  rcases reg_kinds r with hr | hr | rfl | rfl | rfl | rfl
  · simp only [writeReg_readOnly hr]; rfl
  · simp only [writeReg_config hr, unlessBusy_of_idle hi, unlessBusy_of_idle hi', setConfig_eq]
    rfl
  · simp only [writeReg, writeCtrl, unlessBusy_of_idle hi, unlessBusy_of_idle hi']
    split <;> rfl
  · rfl
  · simp only [writeReg, acknowledge]
    split <;> rfl
  · rfl

/-- A host access to an idle block does not depend on the latches. -/
theorem hostAccess_sameButLatches (hi : s.seqState = .idle) (a : HostAccess) :
    SameButLatches (hostAccess a (s.withLatches op arg cs)) (hostAccess a s) := by
  have hparams : (s.withLatches op arg cs).params = s.params := rfl
  cases a with
  | read size addr =>
    simp only [hostAccess, hostRead, hparams, readReg_withLatches]
    split <;> rfl
  | write size addr v =>
    simp only [hostAccess, hostWrite, hparams]
    split
    · exact writeReg_sameButLatches (s := s.answerHost .ack) op arg cs hi _ addr v
    · rw [unlessBusy_of_idle (by exact hi), unlessBusy_of_idle (by exact hi)]
      rfl
    · rfl

/-- The refusal of a word that is no command does not depend on the latches. -/
theorem issueIllegal_withLatches (c : Word) :
    issueIllegal c (s.withLatches op arg cs) = (issueIllegal c s).withLatches op arg cs :=
  cmdError_withLatches _ c op arg cs (s.answerHost .ack)

/-- The checks of an issue do not depend on the latches. -/
theorem issueError_withLatches (i : Instr) : issueError i (s.withLatches op arg cs) = issueError i s := by
  cases i <;> rfl

/-- The issue of a command to an idle block does not depend on the latches, and an accepted one loads them (R205). -/
theorem exec_issue_sameButLatches {t : State} {i : Instr} (hi : s.seqState = .idle) (hc : s.commandStep = .issue)
    (h : exec i s = .next t) :
    ∃ u, exec i (s.withLatches op arg cs) = .next u ∧ SameButLatches u t ∧
      (t.seqState ≠ .idle → u.curOp = t.curOp ∧ u.curArg = t.curArg) := by
  refine ⟨_, exec_issue i (s.withLatches op arg cs) hc, ?_⟩
  rw [exec_issue i s hc] at h
  cases h
  rw [issueError_withLatches]
  by_cases he : issueError i s = .noError
  · simp only [he, if_true]
    split <;> exact ⟨rfl, fun _ => ⟨rfl, rfl⟩⟩
  · simp only [he, if_false]
    exact ⟨rfl, fun hne => absurd hi hne⟩

end Latches

/-- Settles O58, by whose turn it is: the same turn is taken whatever the latches hold, and what it gives differs in
them alone. -/
theorem idleStepsIgnoreTheLatches : Obligations.IdleStepsIgnoreTheLatches := by
  unfold Obligations.IdleStepsIgnoreTheLatches
  intro s t op arg cs hi h
  change ∃ u, step (s.withLatches op arg cs) = .next u ∧ SameButLatches u t ∧
    (t.seqState ≠ .idle → u.curOp = t.curOp ∧ u.curArg = t.curArg)
  rcases turn_cases s with hb | hp | ⟨a, ha⟩
  · rw [step_idle hb hi] at h
    cases h
    exact ⟨_, step_idle (s := s.withLatches op arg cs) hb hi, rfl, fun hne => absurd hi hne⟩
  · rw [step_powerOn hp] at h
    cases h
    exact ⟨_, step_powerOn (s := s.withLatches op arg cs) hp, rfl, fun hne => absurd rfl hne⟩
  · cases hc : a.commandWord with
    | none =>
      rw [step_hostAccess ha hc] at h
      cases h
      refine ⟨_, step_hostAccess (s := s.withLatches op arg cs) ha hc, hostAccess_sameButLatches op arg cs hi a, ?_⟩
      exact fun hne => absurd ((busStep_hostAccess a s).frame.1.trans hi) hne
    | some c =>
      obtain rfl := commandWord_eq_some.1 hc
      cases hd : decode c with
      | illegal e =>
        rw [step_cmdWrite_illegal ha hd] at h
        cases h
        refine ⟨_, step_cmdWrite_illegal (s := s.withLatches op arg cs) ha hd, ?_, ?_⟩
        · rw [issueIllegal_withLatches]
          rfl
        · exact fun hne => absurd (by simp [issueIllegal, hi]) hne
      | command i =>
        rw [step_cmdWrite ha hd] at h
        rw [step_cmdWrite (s := s.withLatches op arg cs) ha hd]
        exact exec_issue_sameButLatches op arg cs hi (commandStep_of_cmdWrite ha) h

end Sys2Proof.Machine
end

section
/-! The sequencer's and the transport's turns are always taken (R207, R282), and which CMD writes are accepted (R201). -/

namespace Sys2Proof.Machine

/-! ### No step stops -/

/-- A transport answer is a next state, whatever the command (R262). -/
theorem exec_answer_next (i : Instr) {s : State} {a : Answer} (hc : s.commandStep = .answer a) :
    ∃ t, exec i s = .next t := by
  cases i with
  | nop | pack l | unpack k | analyze l =>
    exact ⟨s.pop, by simp [exec, execNop, execPack, execUnpack, execAnalyze, hc]⟩
  | send => exact ⟨sendAnswer a s.pop, by simp [exec, execSend, hc]⟩
  | recv => exact ⟨receiveAnswer complete a s.pop, by simp [exec, execRecv, hc]⟩
  | recvAnalyze => exact ⟨receiveAnswer toRxAnalyze a s.pop, by simp [exec, execRecvAnalyze, hc]⟩

/-- A sequencer turn of the command that SEQ_STATE belongs to is a next state (R203, R207). -/
theorem Running.sequencer_next {s : State} {i : Instr} (h : Running s i) (hc : s.commandStep = .sequencer) :
    ∃ t, exec i s = .next t := by
  by_cases hw : s.seqState = .txWait ∨ s.seqState = .rxWait
  · exact ⟨_, h.sequencer_waits hc hw⟩
  · obtain ⟨t, ht, -⟩ := h.sequencer_moves hc (not_or.1 hw)
    exact ⟨t, ht⟩

/-- The block's own turn is taken from every state whose phase is sound. -/
theorem State.PhaseOk.step_blockTurn {s : State} (hp : s.PhaseOk) (h : s.blockTurn = true) :
    ∃ t, step s = .next t := by
  by_cases hi : s.seqState = .idle
  · exact ⟨_, step_idle h hi⟩
  · obtain ⟨i, hd, hrun⟩ := hp.running hi
    rw [step_busy h hi hd]
    rcases commandStep_of_blockTurn h with hc | ⟨a, hc⟩
    · exact hrun.sequencer_next hc
    · exact exec_answer_next i hc

/-- Settles O52, by whose turn it is: only the block's own turn could stop, and a sound phase has a step for it. -/
theorem soundStatesNeverStop : Obligations.SoundStatesNeverStop := by
  unfold Obligations.SoundStatesNeverStop
  rintro s ⟨-, -, hp, -⟩
  rcases turn_cases s with hb | hr | ⟨a, ha⟩
  · exact hp.step_blockTurn hb
  · exact ⟨_, step_powerOn hr⟩
  · obtain ⟨t, ht, -⟩ := step_host ha
    exact ⟨t, ht⟩

/-! ### Which CMD writes are accepted -/

/-- On the word of a command R201's checks are the model's checks of that command. -/
theorem issueCheck_of_command {c : Word} {i : Instr} (h : decode c = .command i) (s : State) :
    issueCheck c s = issueError i s := by
  by_cases hb : s.seqState = .idle
  swap
  · rw [issueError_busy hb]; exact if_pos hb
  rcases decode_cases h with ⟨ho, ha, rfl⟩ | ⟨ho, rfl⟩ | ⟨ho, rfl⟩ | ⟨ho, ha, rfl⟩ | ⟨ho, ha, rfl⟩ | ⟨ho, ha, rfl⟩ |
    ⟨ho, rfl⟩ <;>
    simp [issueCheck, issueError, State.busy, badConfig, badArg, not_and_or, -not_and, ite_or, *]

/-- A word that decodes to no command has an unknown opcode, or an argument where none is allowed (R154). -/
theorem decode_illegal_cases {c : Word} {e : DecodeError} (h : decode c = .illegal e) :
    (opField c).toNat ∉ [0x00, 0x01, 0x02, 0x10, 0x20, 0x21, 0x30] ∨
      ((opField c).toNat ∈ [0x00, 0x10, 0x20, 0x21] ∧ (argField c).toNat ≠ 0) := by
  have hop : ∀ n, n < 256 → ((opField c).toNat = n ↔ opField c = BitVec.ofNat 8 n) := fun n hn => by
    rw [← BitVec.toNat_inj, BitVec.toNat_ofNat, Nat.mod_eq_of_lt hn]
  have harg : (argField c).toNat = 0 ↔ argField c = 0 := BitVec.toNat_inj (y := 0)
  simp only [List.mem_cons, List.not_mem_nil, or_false, hop, Nat.reduceLT, harg, ne_eq]
  unfold decode noArg at h
  split_ifs at h <;> simp_all

/-- A word that is no command fails one of R201's first three checks. -/
theorem issueCheck_of_illegal {c : Word} {e : DecodeError} (h : decode c = .illegal e) (s : State) :
    issueCheck c s = if s.busy then .cmdBusy else .illegalCmd := by
  unfold issueCheck
  by_cases hb : s.seqState = .idle
  · rcases decode_illegal_cases h with ho | ho
    · rw [if_neg (by simpa using hb), if_pos ho]
      simp [State.busy, hb]
    · rw [if_neg (by simpa using hb), if_pos ho, ite_self]
      simp [State.busy, hb]
  · rw [if_pos hb]
    simp [State.busy, hb]

/-- R201's checks accept the words of the commands the model accepts, and no other. -/
theorem issueCheck_eq_noError {c : Word} {s : State} :
    issueCheck c s = .noError ↔ ∃ i, decode c = .command i ∧ issueError i s = .noError := by
  cases hd : decode c with
  | illegal e =>
    rw [issueCheck_of_illegal hd]
    split <;> simp
  | command i => simp [issueCheck_of_command hd]

/-- No command starts in IDLE (R205). -/
theorem firstState_ne_idle (i : Instr) : firstState i ≠ .idle := by
  cases i <;> simp [firstState]

/-- An accepted CMD write makes the block busy (R205). -/
theorem step_accepted {s : State} {c : Word} (h : s.inputs.head? = some (cmdWrite c))
    (hc : issueCheck c s = .noError) : ∃ t, step s = .next t ∧ t.seqState ≠ .idle := by
  obtain ⟨i, hd, he⟩ := issueCheck_eq_noError.1 hc
  refine ⟨_, (step_cmdWrite h hd).trans (exec_issue i s (commandStep_of_cmdWrite h)), ?_⟩
  rw [if_pos he]
  split <;> simp [firstState_ne_idle]

/-- A step that makes an idle block busy is an accepted CMD write (R120 (1)). -/
theorem StepOf.accepted {s t : State} (h : StepOf s t) (hi : s.seqState = .idle) (ht : t.seqState ≠ .idle) :
    ∃ c, s.inputs.head? = some (cmdWrite c) ∧ issueCheck c s = .noError := by
  cases h with
  | begin c i h hd _ he => exact ⟨c, h, issueCheck_eq_noError.2 ⟨i, hd, he⟩⟩
  | beginSend c h hd he => exact ⟨c, h, issueCheck_eq_noError.2 ⟨.send, hd, he⟩⟩
  | pass => exact absurd hi ht
  | powerOn => exact absurd rfl ht
  | bus a => exact absurd ((busStep_hostAccess a s).frame.1.trans hi) ht
  | refuse => simp [hi] at ht
  | nop _ hs | pack _ _ hs | unpack _ _ hs | analyze _ _ hs | sendIssue _ hs | rxIssue _ hs | rxAnalyze _ hs =>
    rw [hi] at hs; cases hs
  | txOk _ _ hb | txErr _ _ hb | rxOk _ _ _ hb | rxOkAnalyze _ _ _ hb | rxErr _ _ hb => exact absurd hi hb

/-- Settles O55: of the steps of an idle block the accepted issues alone leave IDLE, and each of them does. -/
theorem busyFollowsTheIssue : Obligations.BusyFollowsTheIssue := by
  unfold Obligations.BusyFollowsTheIssue
  refine fun s t h hi => ⟨(step_cases h).accepted hi, fun c hw hc => ?_⟩
  obtain ⟨u, hu, hbusy⟩ := step_accepted hw hc
  rw [h] at hu
  cases hu
  exact hbusy

end Sys2Proof.Machine
end

section
/-! The steps of the Sample Packer (41_packer.md R236, R240): the elements of `pack` and `unpack`, and the EXEC step. -/

namespace Sys2Proof.Machine

/-- The words of `pack`, an odd length padded with a zero byte (R230, R232). -/
theorem getElem_pack (bo : ByteOrder) : ∀ (b : List Byte) (k : Nat) (h : k < (pack bo b).length),
    (pack bo b)[k] = pack2 bo (b.getD (2 * k) 0x00#8) (b.getD (2 * k + 1) 0x00#8)
  | [b0], 0, _ => by simp [pack]
  | b0 :: b1 :: r, 0, _ => by simp [pack]
  | b0 :: b1 :: r, k + 1, h => by
    have hk : k < (pack bo r).length := by simpa [pack] using h
    simpa [pack, Nat.mul_add] using getElem_pack bo r k hk
  | [_], k + 1, h => absurd h (by simp [pack])

/-- The bytes of `unpack`, one word at a time (R231). -/
theorem getElem_unpack (bo : ByteOrder) : ∀ (w : List Half) (k : Nat) (h : k < w.length),
    ((unpack bo w)[2 * k]'(by simp; omega), (unpack bo w)[2 * k + 1]'(by simp; omega)) = unpack2 bo w[k]
  | x :: r, 0, _ => by simp [unpack]
  | x :: r, k + 1, h => by
    have ih := getElem_unpack bo r k (by simpa using h)
    simpa [unpack, Nat.mul_add] using ih

/-- The `k`-th sample word that is read. -/
@[simp] theorem getElem_readSamples (s : State) (n k : Nat) (h : k < (s.readSamples n).length) :
    (s.readSamples n)[k] = s.sampleAt k := by simp [State.readSamples]

/-- The `i`-th scratch byte that is read, and 0 beyond the last. -/
theorem getD_readScratch (s : State) (n i : Nat) :
    (s.readScratch n).getD i 0x00#8 = if i < n then s.scratchAt i else 0x00#8 := by
  split
  · rw [List.getD_eq_getElem _ _ (by simpa), getElem_readScratch]
  · exact List.getD_eq_default _ _ (by simpa using Nat.le_of_not_lt ‹_›)

@[simp] theorem readScratch_pop (s : State) (n : Nat) : s.pop.readScratch n = s.readScratch n := rfl

@[simp] theorem readSamples_pop (s : State) (n : Nat) : s.pop.readSamples n = s.readSamples n := rfl

/-- PACK's EXEC step, as one record (R208, R210, R236). -/
theorem exec_pack {l : Nat} {s : State} (hc : s.commandStep = .sequencer) (hs : s.seqState = .exec) :
    exec (.pack l) s = .next { s with
      mem := writeSamples s.mem (pack s.byteOrder (s.readScratch l))
      packedN := BitVec.ofNat 32 ((l + 1) / 2)
      seqState := .idle
      irqStatus := s.irqStatus ||| 0b0001#4
      inputs := s.inputs.tail
      draws := s.draws + 1 } := by
  simp only [exec, execPack, execStep, hc, hs, packAction, readScratch_pop]
  rfl

/-- UNPACK's EXEC step, as one record (R208, R210, R240). -/
theorem exec_unpack {k : Nat} {s : State} (hc : s.commandStep = .sequencer) (hs : s.seqState = .exec) :
    exec (.unpack k) s = .next { s with
      mem := writeScratch s.mem (unpack s.byteOrder (s.readSamples k))
      seqState := .idle
      irqStatus := s.irqStatus ||| 0b0001#4
      inputs := s.inputs.tail
      draws := s.draws + 1 } := by
  simp only [exec, execUnpack, execStep, hc, hs, unpackAction, readSamples_pop]
  rfl

/-- Settles O17: the samples written are the words of `pack`, and the write covers `2 * ceil(L/2)` bytes. -/
theorem packWritesPaddedSamples : Obligations.PackWritesPaddedSamples := by
  unfold Obligations.PackWritesPaddedSamples
  intro l s hc hs
  refine ⟨_, exec_pack hc hs, rfl, fun k hk => ?_, fun a ha => ?_⟩
  · have hfirst : 2 * k < l := by omega
    rw [sampleAt_writeSamples rfl (by simpa using hk), getElem_pack, getD_readScratch, getD_readScratch,
      if_pos hfirst]
  · exact lookup_writeList_outside (by simpa [sampleBase] using ha)

/-- Settles O18: the bytes written are those of `unpack`, `2 * K` of them. -/
theorem unpackWritesBytePairs : Obligations.UnpackWritesBytePairs := by
  unfold Obligations.UnpackWritesBytePairs
  intro k s hc hs
  refine ⟨_, exec_unpack hc hs, rfl, fun j hj => ?_, fun a ha => ?_⟩
  · have hbytes := getElem_unpack s.byteOrder (s.readSamples k) j (by simpa using hj)
    rw [scratchAt_writeScratch rfl (by simp; omega), scratchAt_writeScratch rfl (by simp; omega), hbytes,
      getElem_readSamples]
  · exact lookup_writeList_outside (by simpa [scratchBase] using ha)

end Sys2Proof.Machine
end

section
/-! Host reads and window accesses (20_memory.md R102 to R106, R114). -/

namespace Sys2Proof.Machine

/-! ### Reads -/

/-- A host read changes the response and the draw counter alone (R114). -/
theorem BusStep.read_frame {s t : State} {size : Size} {addr : Word} (h : BusStep s (.read size addr) t) :
    t = { s with inputs := s.inputs.tail, hostResp := t.hostResp, draws := t.draws } := by
  cases h with
  | busError => rfl
  | readReg => rfl
  | readWindow => rfl

/-- Settles O42: a read issues no command, so it is a bus access, and one of a register's offset answers `readReg`. -/
theorem hostReadsChangeNothing : Obligations.HostReadsChangeNothing := by
  unfold Obligations.HostReadsChangeNothing
  refine ⟨fun s size a h => ?_, fun s r h => step_readReg h⟩
  have hbus := busStep_hostAccess (.read size a) s
  exact ⟨_, step_hostAccess h rfl, hbus.read_frame, hbus.hostResp.1⟩

/-- The value of `k` bytes read from `a`: the byte at `a + j` weighs `256 ^ j` (R106). -/
theorem ofBytes_readList (n : Nat) (m : List Host.Cell) (a k : Nat) :
    ofBytes (Memory.readList n m a k) = ((List.range k).map fun j => (Memory.read n m (a + j)).toNat * 256 ^ j).sum := by
  induction k generalizing a with
  | zero => rfl
  | succ k ih =>
    have hshift : ∀ j, (Memory.read n m (a + (j + 1))).toNat * 256 ^ (j + 1) =
        256 * ((Memory.read n m (a + 1 + j)).toNat * 256 ^ j) := fun j => by
      rw [show a + (j + 1) = a + 1 + j by omega, Nat.pow_succ]; ring
    simp [List.range_succ_eq_map, Memory.readList, ofBytes, ih, Function.comp_def, hshift, List.sum_map_mul_left]

/-- At most four bytes are read, so their value fits the 32-bit response (R106). -/
theorem toNat_windowValue (s : State) (size : Size) (addr : Word) : (windowValue s size addr).toNat =
    ((List.range size.bytes).map fun j => (Memory.read s.draws s.mem (addr.toNat + j)).toNat * 256 ^ j).sum := by
  have hlt := ofBytes_lt (Memory.readList s.draws s.mem addr.toNat size.bytes)
  have hle : 256 ^ size.bytes ≤ 2 ^ 32 := by cases size <;> decide
  rw [length_readList] at hlt
  rw [windowValue, BitVec.toNat_ofNat, Nat.mod_eq_of_lt (hlt.trans_le hle), ofBytes_readList]

/-- A window read answers the value of its bytes and uses up its draws (R104, log 1). -/
theorem hostAccess_readWindow {s : State} {size : Size} {a : Word} (h : busTarget s.params size a = some .window) :
    hostAccess (.read size a) s = (s.answerHost (.value (windowValue s size a))).drawn := by
  simp only [hostAccess, hostRead, h]

/-- Settles O43: the byte maps are the model's bases with a sample's low byte first, and a window read answers the
value of its bytes. -/
theorem windowReadsAndByteMaps : Obligations.WindowReadsAndByteMaps := by
  unfold Obligations.WindowReadsAndByteMaps
  constructor
  · exact fun s i => ⟨rfl, rfl, lowByte_append _ _, highByte_append _ _⟩
  · intro s size a _ h hal hpop
    have hread := step_hostAccess h rfl
    rw [hostAccess_readWindow (busTarget_of_populated hal hpop)] at hread
    exact ⟨_, _, hread, rfl, toNat_windowValue s size a⟩

/-! ### Writes -/

/-- A window write stores its bytes while IDLE (R104, R212). -/
theorem hostAccess_writeWindow {s : State} {size : Size} {a v : Word} (hi : s.seqState = .idle)
    (h : busTarget s.params size a = some .window) :
    hostAccess (.write size a v) s = writeWindow size a v (s.answerHost .ack) := by
  simp only [hostAccess, hostWrite, h]
  exact unlessBusy_of_idle hi

/-- Byte `j` of a written value is its bits `8j+7 .. 8j` (R106). -/
theorem getElem?_toBytes {n j : Nat} (v : Word) (h : j < n) :
    (toBytes n v.toNat)[j]? = some (v.extractLsb' (8 * j) 8) := by
  rw [List.getElem?_eq_getElem (by simpa using h), getElem_toBytes]
  congr 1
  apply BitVec.eq_of_toNat_eq
  rw [BitVec.toNat_ofNat, BitVec.extractLsb'_toNat, Nat.shiftRight_eq_div_pow, Nat.pow_mul]

/-- Settles O44: the write is no CMD write since CMD stands below every window, and what it stores is the value's bytes
from the lowest. -/
theorem windowWritesAreLittleEndian : Obligations.WindowWritesAreLittleEndian := by
  unfold Obligations.WindowWritesAreLittleEndian
  intro s size a v _ h hi hal hpop
  have htarget := busTarget_of_populated hal hpop
  have hc : (HostAccess.write size a v).commandWord = none := by
    refine commandWord_eq_none fun c hcmd => ?_
    cases hcmd
    exact absurd (htarget.symm.trans (busTarget_offset s.params .cmd)) (by simp)
  have hwrite := step_hostAccess h hc
  rw [hostAccess_writeWindow hi htarget] at hwrite
  refine ⟨_, hwrite, rfl, fun j hj => ?_, fun b hb => ?_⟩
  · simp only [writeWindow, answerHost_mem]
    rw [lookup_writeList, if_pos (by simpa using hj), Nat.add_sub_cancel_left, getElem?_toBytes v hj]
  · exact lookup_writeList_outside (by simpa using hb)

end Sys2Proof.Machine
end

section
/-! The encoding (30_encoding.md): the decoder and the encoder as inverses (R150 to R156), the opcode map by its match
and mask columns (R153), illegal words (R154), report frames (R170 to R172), and the fetched word (log 5). -/

namespace Sys2Proof.Machine

/-! ### Decoding and encoding (R150, R153, R156) -/

/-- Settles O2, one command at a time: OP selects the command's row, and ARG is the argument, which fits its field. -/
theorem decodeOfEncodeIsTheCommand : Obligations.DecodeOfEncodeIsTheCommand := by
  unfold Obligations.DecodeOfEncodeIsTheCommand
  intro i hwf
  obtain ⟨hop, harg⟩ := Laws.EncodedFields.of_wellFormed i hwf
  cases i with
  | nop | send | recv | recvAnalyze => rfl
  | pack l | unpack k | analyze l => rw [decode, hop, harg]; rfl

/-- A decoded command is its word's fields: OP is its opcode and ARG its argument (R150, R153). -/
theorem fields_of_decode {c : Word} {i : Instr} (h : decode c = .command i) :
    opField c = i.op ∧ i.arg = (argField c).toNat := by
  rcases decode_cases h with ⟨ho, ha, rfl⟩ | ⟨ho, rfl⟩ | ⟨ho, rfl⟩ | ⟨ho, ha, rfl⟩ | ⟨ho, ha, rfl⟩ | ⟨ho, ha, rfl⟩ |
    ⟨ho, rfl⟩ <;> simp [Instr.op, Instr.arg, *]

/-- A decoded command has an encoding: its argument is read from 24 bits (R151, R156). -/
theorem wellFormed_of_decode {c : Word} {i : Instr} (h : decode c = .command i) : i.WellFormed :=
  (fields_of_decode h).2.trans_lt (argField c).isLt

/-- Settles O3: a word that decodes is its OP and ARG put together again. -/
theorem encodeOfDecodedIsTheWord : Obligations.EncodeOfDecodedIsTheWord :=
  fun _ _ h => ⟨encode_of_decode h, wellFormed_of_decode h⟩

/-- The words of a command, by their two fields: the decoder finds the command exactly where OP is its opcode and ARG
its argument. -/
theorem decode_eq_command_iff {c : Word} {i : Instr} :
    decode c = .command i ↔ opField c = i.op ∧ i.arg = (argField c).toNat := by
  refine ⟨fields_of_decode, ?_⟩
  rintro ⟨hop, harg⟩
  have hc : encode i = c := by
    rw [encode, harg, BitVec.ofNat_toNat, BitVec.setWidth_eq, ← hop, argField_append_opField]
  rw [← hc]
  exact decodeOfEncodeIsTheCommand i (harg.trans_lt (argField c).isLt)

/-- Settles O1, by running the decoder and the encoder on the words listed. -/
theorem specExampleWords : Obligations.SpecExampleWords := by
  unfold Obligations.SpecExampleWords
  decide

/-! ### The match and mask columns of the opcode map (R153) -/

/-- Every row's mask covers OP, so a word that matches a row has the OP of the row's value. -/
theorem opField_of_match {c : Word} {r : OpRow} (hr : r ∈ opTable) (h : c &&& r.mask = r.value) :
    opField c = opField r.value := by
  have hmask : ∀ q ∈ opTable, opField q.mask = BitVec.allOnes 8 := by decide
  rw [← h, opField, opField, BitVec.extractLsb'_and, ← opField, ← opField, hmask r hr, BitVec.and_allOnes]

/-- No two rows share an opcode. -/
theorem opTable_opField_injective :
    ∀ r₁ ∈ opTable, ∀ r₂ ∈ opTable, opField r₁.value = opField r₂.value → r₁ = r₂ := by
  decide

/-- The mask `0x000000FF` keeps OP alone. -/
theorem and_opMask_eq_iff {c : Word} {op : BitVec 8} : c &&& 0x000000FF#32 = op.setWidth 32 ↔ opField c = op := by
  have hmask : (c &&& 0x000000FF#32).toNat = (opField c).toNat := by
    rw [opField, BitVec.extractLsb'_toNat]
    exact Nat.and_two_pow_sub_one_eq_mod c.toNat 8
  rw [← BitVec.toNat_inj, hmask, BitVec.toNat_setWidth_of_le (by decide), BitVec.toNat_inj]

/-- ARG is the word shifted past OP. -/
theorem toNat_argField (c : Word) : (argField c).toNat = (c >>> 8).toNat := by
  have hlt : c.toNat >>> 8 < 2 ^ 24 := by
    rw [Nat.shiftRight_eq_div_pow]
    omega
  rw [argField, BitVec.extractLsb'_toNat, BitVec.toNat_ushiftRight, Nat.mod_eq_of_lt hlt]

/-- A command without an argument is its one word, under the full mask. -/
theorem decode_eq_command_iff_full_mask {c : Word} {i : Instr} (harg : i.arg = 0) :
    decode c = .command i ↔ c &&& 0xFFFFFFFF#32 = encode i := by
  have hwf : i.WellFormed := by simp [Instr.WellFormed, harg]
  have hmask : c &&& 0xFFFFFFFF#32 = c := BitVec.and_allOnes
  rw [hmask]
  constructor
  · exact fun h => (encode_of_decode h).symm
  · rintro rfl
    exact decodeOfEncodeIsTheCommand i hwf

/-- A command with an argument is selected by OP under the mask `0x000000FF`; the rest of the word is the argument. -/
theorem decode_eq_command_iff_op_mask {c : Word} {i : Instr} :
    decode c = .command i ↔ c &&& 0x000000FF#32 = i.op.setWidth 32 ∧ i.arg = (c >>> 8).toNat := by
  rw [decode_eq_command_iff, toNat_argField, and_opMask_eq_iff]

/-- Settles O4: the columns row by row under the row's kind of mask, and rows told apart by their opcodes. -/
theorem opcodeMapByMatchAndMask : Obligations.OpcodeMapByMatchAndMask := by
  unfold Obligations.OpcodeMapByMatchAndMask
  intro c
  exact ⟨decode_eq_command_iff_full_mask (i := .nop) rfl,
    fun l => decode_eq_command_iff_op_mask (i := .pack l),
    fun k => decode_eq_command_iff_op_mask (i := .unpack k),
    decode_eq_command_iff_full_mask (i := .send) rfl,
    decode_eq_command_iff_full_mask (i := .recv) rfl,
    decode_eq_command_iff_full_mask (i := .recvAnalyze) rfl,
    fun l => decode_eq_command_iff_op_mask (i := .analyze l),
    fun r₁ h₁ r₂ h₂ hc₁ hc₂ => opTable_opField_injective r₁ h₁ r₂ h₂
      ((opField_of_match h₁ hc₁).symm.trans (opField_of_match h₂ hc₂))⟩

/-! ### Illegal words (R154) -/

/-- A command's word has an opcode of the map, and ARG 0 where the command takes no argument. -/
theorem legalFields_of_decode {c : Word} {i : Instr} (h : decode c = .command i) :
    (opField c).toNat ∈ [0x00, 0x01, 0x02, 0x10, 0x20, 0x21, 0x30] ∧
      ((opField c).toNat ∈ [0x00, 0x10, 0x20, 0x21] → (argField c).toNat = 0) := by
  obtain ⟨hop, harg⟩ := fields_of_decode h
  rw [hop, ← harg]
  cases i <;> simp [Instr.op, Instr.arg]

/-- R154's illegal words are those that decode to no command. -/
theorem exists_decode_illegal_iff (c : Word) :
    (∃ e, decode c = .illegal e) ↔
      ((opField c).toNat ∉ [0x00, 0x01, 0x02, 0x10, 0x20, 0x21, 0x30] ∨
        ((opField c).toNat ∈ [0x00, 0x10, 0x20, 0x21] ∧ (argField c).toNat ≠ 0)) := by
  constructor
  · rintro ⟨e, h⟩
    exact decode_illegal_cases h
  · intro hbad
    cases hd : decode c with
    | illegal e => exact ⟨e, rfl⟩
    | command i =>
      obtain ⟨hop, harg⟩ := legalFields_of_decode hd
      rcases hbad with hbad | ⟨hnoArg, hne⟩
      · exact absurd hop hbad
      · exact absurd (harg hnoArg) hne

/-- Settles O5: the issue of a word that is no command raises its error and nothing else, and an idle block's error is
ILLEGAL_CMD. -/
theorem illegalWordsExecuteNothing : Obligations.IllegalWordsExecuteNothing := by
  unfold Obligations.IllegalWordsExecuteNothing
  refine fun c => ⟨exists_decode_illegal_iff c, fun s e hd hi hw => ?_⟩
  have hbusy : s.busy = false := by simp [State.busy, hi]
  rw [step_cmdWrite_illegal hw hd, issueIllegal, hbusy, cmdError_answerHost]
  rfl

/-! ### The fetched word (log 5) -/

/-- An instruction the decoder reads from a table word is what the command word made of it decodes to. -/
theorem decode_tableWord {nbits w : Nat} {i : Instr} (h : decodeTableWord nbits w = some i) :
    decode (tableWord nbits w) = .command i := by
  unfold decodeTableWord at h
  split at h
  · cases hd : decode (tableWord nbits w) with
    | command j => rw [hd] at h; cases h; rfl
    | illegal e => rw [hd] at h; cases h
  · cases h

/-- Settles O8: the placed input is the host's write of the word to CMD, and so the command's step. -/
theorem fetchWordIsRunNext : Obligations.FetchWordIsRunNext :=
  fun _ _ _ _ h => step_cmdWrite rfl (decode_tableWord h)

/-! ### Report frames (R170 to R172) -/

/-- The fields of the first word of a statistics frame: KIND 5, CLASS, and zeros above. -/
theorem statsFrame_head_fields (x : Strength) :
    (0#26 ++ x.code ++ 5#4).extractLsb' 0 4 = 5#4 ∧ (0#26 ++ x.code ++ 5#4).extractLsb' 4 2 = x.code ∧
      (0#26 ++ x.code ++ 5#4).extractLsb' 6 26 = 0#26 := by
  cases x <;> decide

/-- Settles O35: a frame's words stand in its definition, and the codes of KIND and CLASS are written out. -/
theorem reportFrameLayout : Obligations.ReportFrameLayout := by
  unfold Obligations.ReportFrameLayout
  constructor
  · intro k i b
    cases k <;> rfl
  · intro a
    obtain ⟨hkind, hclass, hzero⟩ := statsFrame_head_fields a.strength
    refine ⟨_, rfl, hkind, hclass.trans ?_, hzero⟩
    cases a.strength <;> rfl

end Sys2Proof.Machine
end

section
/-! The issue of a command (40_common.md R201 to R205, R264), its completion (R208 to R210, R215), and transport inputs
that are no answer (R262). -/

namespace Sys2Proof.Machine

/-! ### The issue (R201, R205) -/

/-- An accepted command's start is R205's, and for SEND R264's, on the command's word. -/
theorem start_eq_started (i : Instr) (s : State) :
    (if i = .send then clearSendCounters (start i (s.answerHost .ack)) else start i (s.answerHost .ack)) =
      started (encode i) s := by
  cases i <;> simp [started, start, clearSendCounters, State.answerHost, firstState, Instr.op, Instr.arg]

/-- An issue whose checks pass starts the command. -/
theorem exec_accepted {i : Instr} {s : State} (hc : s.commandStep = .issue) (he : issueError i s = .noError) :
    exec i s = .next (started (encode i) s) := by
  rw [exec_issue i s hc, if_pos he, start_eq_started]

/-- An issue that fails a check raises its error. -/
theorem exec_rejected {i : Instr} {s : State} (hc : s.commandStep = .issue) (he : issueError i s ≠ .noError) :
    exec i s = .next (raised (issueError i s) (encode i) s) := by
  rw [exec_issue i s hc, if_neg he]

/-- Settles O10: a word that is no command fails one of the first three checks, and on a command's word R201's checks
are the model's. -/
theorem issueFollowsTheCheckOrder : Obligations.IssueFollowsTheCheckOrder := by
  unfold Obligations.IssueFollowsTheCheckOrder
  intro s c hw
  cases hd : decode c with
  | illegal e =>
    have hcode : (if s.busy then ErrCode.cmdBusy else .illegalCmd) ≠ .noError := by split <;> simp
    rw [step_cmdWrite_illegal hw hd, issueIllegal, cmdError_answerHost, issueCheck_of_illegal hd, if_neg hcode]
  | command i =>
    have hc := commandStep_of_cmdWrite hw
    rw [step_cmdWrite hw hd, issueCheck_of_command hd, ← encode_of_decode hd]
    by_cases he : issueError i s = .noError
    · rw [if_pos he, exec_accepted hc he]
    · rw [if_neg he, exec_rejected hc he]

/-- An idle block with a legal configuration and argument accepts the command (R201). -/
theorem issueError_of_legal {i : Instr} {s : State} (hi : s.seqState = .idle) (hconfig : badConfig i s = false)
    (harg : badArg i s = false) : issueError i s = .noError := by
  simp [issueError, State.busy, hi, hconfig, harg]

/-- Settles O11: the premises are the configuration and the argument check of each command. -/
theorem acceptedIssueStartsTheCommand : Obligations.AcceptedIssueStartsTheCommand := by
  unfold Obligations.AcceptedIssueStartsTheCommand
  intro i s _ hc hi hcap hsend hrecv hlen hwords
  refine exec_accepted hc (issueError_of_legal hi ?_ ?_)
  · cases i with
    | nop => rfl
    | pack l | unpack k | analyze l => simpa [badConfig] using hcap (by simp)
    | send => simpa [badConfig] using And.intro (hcap (by simp)) (hsend rfl)
    | recv | recvAnalyze => simpa [badConfig] using And.intro (hcap (by simp)) (hrecv (by simp))
  · cases i with
    | nop | send | recv | recvAnalyze => rfl
    | pack l | analyze l => simpa [badArg] using hlen l (by simp)
    | unpack k => simpa [badArg] using hwords k rfl

/-- Settles O12: BUSY is the first check. -/
theorem commandWhileBusyIsRefused : Obligations.CommandWhileBusyIsRefused := by
  unfold Obligations.CommandWhileBusyIsRefused
  intro i s hc hb
  have he := issueError_busy (i := i) hb
  rw [exec_rejected hc (by simp [he]), he]

/-! ### Completion (R208 to R210) -/

/-- Settles O13: NOP's action in EXEC is empty, and what is left is `complete`. -/
theorem nopOnlyCompletes : Obligations.NopOnlyCompletes := by
  unfold Obligations.NopOnlyCompletes
  intro s hc hs
  simp only [exec, execNop, execStep, hc, hs]
  rfl

/-- A completed command is pending as DONE (R210). -/
theorem complete_done (s : State) : (complete s).irqStatus.getLsbD 0 = true := by
  simp [irqDone]

/-- While BUSY the issue of any word raises CMD_BUSY (R201, R401). -/
theorem step_cmdWrite_busy {s : State} {c : Word} (h : s.inputs.head? = some (cmdWrite c)) (hb : s.seqState ≠ .idle) :
    step s = .next (raised .cmdBusy c s) := by
  have hcheck : issueCheck c s = .cmdBusy := if_pos hb
  rw [issueFollowsTheCheckOrder s c h, hcheck, if_neg (by simp)]

/-- No host access changes what the running command is executed from (R209). -/
theorem step_host_busy {s t : State} {a : HostAccess} (h : s.inputs.head? = some (.host a)) (hb : s.seqState ≠ .idle)
    (ht : step s = .next t) :
    t.seqState = s.seqState ∧ t.curOp = s.curOp ∧ t.curArg = s.curArg ∧ t.curCs = s.curCs ∧ t.treq = s.treq := by
  cases hc : a.commandWord with
  | none =>
    rw [step_hostAccess h hc] at ht
    cases ht
    obtain ⟨hseq, hop, harg, hcs, htreq, -⟩ := hostAccess_frame_busy (a := a) hb
    exact ⟨hseq, hop, harg, hcs, htreq⟩
  | some c =>
    obtain rfl := commandWord_eq_some.1 hc
    rw [step_cmdWrite_busy h hb] at ht
    cases ht
    exact ⟨rfl, rfl, rfl, rfl, rfl⟩

/-- Besides power-on reset only a step that completes ends a running command (R209, R210). -/
theorem StepOf.reset_or_done {s t : State} (h : StepOf s t) (hb : s.seqState ≠ .idle) (ht : t.seqState = .idle) :
    s.inputs.head? = some .powerOnReset ∨ (s.blockTurn = true ∧ t.irqStatus.getLsbD 0 = true) := by
  cases h with
  | powerOn h => exact .inl h
  | nop h | pack _ h | unpack _ h | analyze _ h | rxAnalyze h | rxOk _ _ h | rxErr _ h =>
    exact .inr ⟨h, complete_done _⟩
  | sendIssue h =>
    unfold sendIssueStep at ht ⊢
    split at ht
    · rw [if_pos ‹_›]
      exact .inr ⟨h, complete_done _⟩
    · cases ht
  | txOk | txErr | rxIssue | rxOkAnalyze => cases ht
  | pass => exact absurd ht hb
  | bus a => exact absurd ((busStep_hostAccess a s).frame.1.symm.trans ht) hb
  | refuse => exact absurd (by simpa using ht) hb
  | begin c i => exact absurd ht (firstState_ne_idle i)
  | beginSend => cases ht

/-- Settles O39: a host access leaves the five fields alone, and the steps that end a command are its own. -/
theorem runningCommandCannotBeCancelled : Obligations.RunningCommandCannotBeCancelled :=
  fun _ _ hb h => ⟨fun _ ha => step_host_busy ha hb h, (step_cases h).reset_or_done hb⟩

/-! ### Inputs that are no answer (R262) -/

/-- What answers no transmit request passes. -/
theorem sendAnswer_of_other {a : Answer} (s : State) (hok : a ≠ .txOk) (herr : a ≠ .txErr) : sendAnswer a s = s := by
  unfold sendAnswer
  split
  · exact absurd rfl hok
  · exact absurd rfl herr
  · rfl

/-- What answers no receive request of `n` bytes passes: neither a failure nor a success of at most `n` bytes. -/
theorem receiveAnswer_of_other {after : State → State} {a : Answer} {s : State} {n : Nat} (ht : s.treq = .receive n)
    (herr : a ≠ .rxErr) (hok : ∀ d, a = .rxOk d → n < d.length) : receiveAnswer after a s = s := by
  cases a with
  | rxErr => exact absurd rfl herr
  | rxOk d => simp [receiveAnswer, ht, Nat.not_le.2 (hok d rfl)]
  | txOk | txErr => simp [receiveAnswer, ht]

/-- Settles O26, by the request: without one every answer passes, and in the two WAIT states what does not answer it. -/
theorem nonAnswersAreNoStep : Obligations.NonAnswersAreNoStep := by
  unfold Obligations.NonAnswersAreNoStep
  rintro s a ⟨-, -, hp, -⟩ h htx hrx
  obtain ⟨hturn, hc⟩ := transportTurn h
  by_cases hi : s.seqState = .idle
  · exact step_idle hturn hi
  obtain ⟨i, hd, hrun⟩ := hp.running hi
  rw [step_busy hturn hi hd]
  by_cases hnone : s.treq = .none
  · exact hrun.answer_passes hc hnone
  cases hrun with
  | txWait words hs ht =>
    obtain ⟨hok, herr⟩ := htx words ht
    simp [exec, execSend, hc, sendAnswer_of_other _ hok herr]
  | rxWait i hs hrecv ht =>
    obtain ⟨herr, hok⟩ := hrx _ ht
    have hpass : ∀ after, receiveAnswer after a s.pop = s.pop := fun after => receiveAnswer_of_other ht herr hok
    rcases hrecv with rfl | rfl <;> simp [exec, execRecv, execRecvAnalyze, hc, hpass]
  | inExec _ _ _ ht | sendIssue _ ht | rxIssue _ _ _ ht | rxAnalyze _ ht => exact absurd ht hnone

end Sys2Proof.Machine
end

section
/-! SEND's chunk preparation (42_streamer.md R265). -/

namespace Sys2Proof.Machine

/-- The pad byte of an odd chunk is the one `pack` would add (R230, R265). -/
theorem pack_padded (bo : ByteOrder) : ∀ b : List Byte, pack bo (b ++ List.replicate (b.length % 2) 0) = pack bo b
  | [] => rfl
  | [_] => rfl
  | b0 :: b1 :: r => by simpa [pack, Nat.add_assoc] using pack_padded bo r

/-- Bytes written to scratch are read back (R102). -/
theorem readScratch_writeScratch {s : State} {m : List Host.Cell} {bytes : List Byte}
    (hm : s.mem = writeScratch m bytes) : s.readScratch bytes.length = bytes :=
  List.ext_getElem (by simp) fun i h _ => by
    rw [getElem_readScratch, scratchAt_writeScratch hm (by simpa using h)]

/-- Payload bytes that are read, one by one. -/
theorem readPayload_eq_map (s : State) (p n : Nat) :
    s.readPayload p n = (List.range n).map fun i => s.payloadAt (p + i) :=
  List.ext_getElem (by simp) fun i _ _ => by simp

/-- The words of a chunk are its packed payload bytes (R265, the spec's inference there). -/
theorem chunkWords_eq (s : State) : s.chunkWords = pack s.byteOrder (s.readPayload s.pos.toNat s.chunkSize) := by
  have hread : (copyChunk s).readScratch (s.chunkSize + s.chunkSize % 2) = s.chunkBytes := by
    rw [← length_chunkBytes]
    exact readScratch_writeScratch rfl
  have hpad := pack_padded s.byteOrder (s.readPayload s.pos.toNat s.chunkSize)
  rw [length_readPayload] at hpad
  rw [State.chunkWords, hread, State.chunkBytes, hpad]

/-- A payload byte of the chunk in its scratch copy. -/
theorem getElem_chunkBytes_payload {s : State} {i : Nat} (h : i < s.chunkSize) :
    s.chunkBytes[i]'(by simp; omega) = s.payloadAt (s.pos.toNat + i) := by
  simp [State.chunkBytes, h]

/-- The pad byte of an odd chunk in its scratch copy. -/
theorem getElem_chunkBytes_pad {s : State} (h : s.chunkSize % 2 = 1) :
    s.chunkBytes[s.chunkSize]'(by simp; omega) = 0x00#8 := by
  simp [State.chunkBytes]

/-- Writing samples leaves the scratch window alone, which ends where the sample window begins (R101). -/
theorem scratchAt_writeSamples {s : State} {m : List Host.Cell} {bytes : List Byte} {words : List Half}
    (hm : s.mem = writeSamples (writeScratch m bytes) words) {i : Nat} (h : i < bytes.length)
    (hmax : bytes.length ≤ 65536) : s.scratchAt i = bytes[i] := by
  rw [State.scratchAt, hm, writeSamples, read_writeList_outside (by unfold scratchBase sampleBase; omega),
    writeScratch, read_writeList_inside h]

/-- A chunk before the end of the payload is not empty, and an odd one is the last and shorter than an even capacity
(R265, the spec's inference there). -/
theorem chunkSize_bounds {s : State} (hcap : s.capOk) (hlt : s.pos.toNat < s.payloadLen.toNat) :
    1 ≤ s.chunkSize ∧ s.chunkSize ≤ s.capacity.toNat ∧
      (s.chunkSize % 2 = 1 → s.pos.toNat + s.chunkSize = s.payloadLen.toNat ∧ s.chunkSize < s.capacity.toNat) := by
  obtain ⟨heven, htwo, -⟩ := hcap
  unfold State.chunkSize
  omega

/-- SEND's step in SEND_ISSUE (R203). -/
theorem exec_sendIssue {s : State} (hc : s.commandStep = .sequencer) (hs : s.seqState = .sendIssue) :
    exec .send s = .next (sendIssueStep s.pop) := by
  simp [exec, execSend, sendTurn, hc, hs]

/-- Chunk preparation touches scratch and samples only where the padded chunk lies (R265). -/
theorem lookup_prepareChunk {s : State} {a : Nat}
    (hscratch : a < scratchBase ∨ scratchBase + s.chunkSize + s.chunkSize % 2 ≤ a)
    (hsample : a < sampleBase ∨ sampleBase + s.chunkSize + s.chunkSize % 2 ≤ a) :
    Memory.lookup (prepareChunk s).mem a = Memory.lookup s.mem a := by
  have hwords : a < sampleBase ∨ sampleBase + (sampleBytes s.chunkWords).length ≤ a := by simp; omega
  have hbytes : a < scratchBase ∨ scratchBase + s.chunkBytes.length ≤ a := by simp; omega
  exact (lookup_writeList_outside hwords).trans (lookup_writeList_outside hbytes)

/-- Chunk preparation's next state, field by field beside the memories (R265). -/
theorem prepareChunk_pop (s : State) : prepareChunk s.pop = { s with
    mem := (prepareChunk s.pop).mem
    packedN := BitVec.ofNat 32 ((s.chunkSize + 1) / 2)
    curCs := BitVec.ofNat 32 s.chunkSize
    treq := .transmit s.chunkWords
    seqState := .txWait
    inputs := s.inputs.tail
    draws := s.draws + 1 } := rfl

/-- The padded chunk's bytes stand in scratch after the preparation (R265). -/
theorem scratchAt_prepareChunk {s : State} (hlegal : s.params.Legal) (hcap : s.capOk) {i : Nat}
    (h : i < s.chunkBytes.length) : (prepareChunk s).scratchAt i = s.chunkBytes[i] := by
  obtain ⟨-, -, hmax, -⟩ := hlegal
  have hfits := chunkSize_padded_le hcap
  exact scratchAt_writeSamples (m := s.mem) (words := s.chunkWords) rfl h (by rw [length_chunkBytes]; omega)

/-- The chunk's words stand in the sample memory after the preparation (R265). -/
theorem sampleAt_prepareChunk {s : State} {k : Nat} (h : k < s.chunkWords.length) :
    (prepareChunk s).sampleAt k = s.chunkWords[k] :=
  sampleAt_writeSamples (m := (copyChunk s).mem) rfl h

/-- Settles O20: at the end of the payload the step is `complete`; before it `prepareChunk`, with its fields, scratch
bytes, sample words and frame. -/
theorem sendIssuePreparesChunkOrCompletes : Obligations.SendIssuePreparesChunkOrCompletes := by
  unfold Obligations.SendIssuePreparesChunkOrCompletes
  intro s hc hs
  rw [exec_sendIssue hc hs]
  refine ⟨fun hend => congrArg _ (if_pos hend), ?_⟩
  intro cs words hlegal hcap _ hlt hcs hwords
  obtain rfl : cs = s.chunkSize := hcs
  obtain rfl : words = s.chunkWords := by rw [hwords, chunkWords_eq, readPayload_eq_map]
  have hne : s.pos ≠ s.payloadLen := fun h => by simp [h] at hlt
  obtain ⟨hpos, hle, hodd⟩ := chunkSize_bounds hcap hlt
  refine ⟨prepareChunk s.pop, congrArg _ (if_neg hne), prepareChunk_pop s, hpos, hle, hodd, fun i hi => ?_,
    fun h => ?_, fun k hk => ?_, fun a => lookup_prepareChunk (s := s.pop)⟩
  · exact (scratchAt_prepareChunk (s := s.pop) hlegal hcap _).trans (getElem_chunkBytes_payload hi)
  · exact (scratchAt_prepareChunk (s := s.pop) hlegal hcap _).trans (getElem_chunkBytes_pad h)
  · have hlen : k < s.chunkWords.length := by simpa using hk
    rw [List.getElem?_eq_getElem hlen]
    exact congrArg some (sampleAt_prepareChunk (s := s.pop) hlen)

end Sys2Proof.Machine
end

section
/-! The elements of the packer's conversions (41_packer.md R230, R231), and UNPACK after PACK (R242). -/

namespace Sys2Proof.Machine

/-- Settles O15: the lengths, and the elements one word at a time. -/
theorem packAndUnpackElements : Obligations.PackAndUnpackElements := by
  unfold Obligations.PackAndUnpackElements
  refine fun bo => ⟨fun b => ⟨length_pack bo b, fun k hk => ?_⟩, fun w => ⟨length_unpack bo w, fun k hk => ?_⟩⟩
  · have hlen : k < (pack bo b).length := by simpa using hk
    rw [List.getElem?_eq_getElem hlen, getElem_pack]
    rfl
  · have hfirst : 2 * k < (unpack bo w).length := by simp; omega
    have hsecond : 2 * k + 1 < (unpack bo w).length := by simp; omega
    rw [List.getElem?_eq_getElem hfirst, List.getElem?_eq_getElem hsecond, List.getD_eq_getElem w 0 hk,
      ← getElem_unpack bo w k hk]
    exact ⟨rfl, rfl⟩

/-- Sample words that have been written are read back (R103). -/
theorem readSamples_writeSamples {s : State} {m : List Host.Cell} {words : List Half}
    (hm : s.mem = writeSamples m words) : s.readSamples words.length = words :=
  List.ext_getElem (by simp) fun k _ h => by rw [getElem_readSamples, sampleAt_writeSamples hm h]

/-- PACKED_N holds PACK's number of samples exactly: that of a block of at most 65536 bytes fits 32 bits (R236). -/
theorem toNat_packedN {l : Nat} (h : l ≤ 65536) : (BitVec.ofNat 32 ((l + 1) / 2)).toNat = (l + 1) / 2 :=
  Nat.mod_eq_of_lt (by omega)

/-- UNPACK of PACKED_N after PACK: PACK's samples are written to the sample memory, and then the bytes PACK read, with
the pad of an odd length, to scratch (R242). -/
theorem exec_pack_unpack {l : Nat} {s : State} (hc : s.commandStep = .sequencer) (hs : s.seqState = .exec)
    (hl : l ≤ 65536) : ∃ t u, exec (.pack l) s = .next t ∧
      exec (.unpack t.packedN.toNat) { t with seqState := .exec, inputs := [] } = .next u ∧
      u.mem = writeScratch (writeSamples s.mem (pack s.byteOrder (s.readScratch l)))
        (s.readScratch l ++ List.replicate (l % 2) 0x00#8) := by
  refine ⟨_, _, exec_pack hc hs, exec_unpack rfl rfl, congrArg (writeScratch _) ?_⟩
  have hcount : (BitVec.ofNat 32 ((l + 1) / 2)).toNat = (pack s.byteOrder (s.readScratch l)).length := by
    rw [toNat_packedN hl, length_pack, length_readScratch]
  have hround := unpack_pack s.byteOrder (s.readScratch l)
  rw [length_readScratch] at hround
  rw [hcount, readSamples_writeSamples rfl, hround]

/-- Settles O19: the bytes written to scratch are those PACK read and the pad of an odd length, and both writes leave
the scratch bytes after them as they were. -/
theorem unpackAfterPackRestoresScratch : Obligations.UnpackAfterPackRestoresScratch := by
  unfold Obligations.UnpackAfterPackRestoresScratch
  intro l s hc hs hl
  obtain ⟨t, u, ht, hu, hmem⟩ := exec_pack_unpack hc hs hl
  refine ⟨t, u, ht, hu, fun i hi => ?_, fun hodd => ?_, fun i hi hmax => ?_⟩
  · rw [scratchAt_writeScratch hmem (by simp; omega), List.getElem_append_left (by simpa using hi),
      getElem_readScratch]
  · rw [scratchAt_writeScratch hmem (by simp [hodd])]
    simp
  · have hscratch : scratchBase + (s.readScratch l ++ List.replicate (l % 2) 0x00#8).length ≤ 0x00010000 + i := by
      simp [scratchBase]; omega
    have hsample : 0x00010000 + i < sampleBase := by unfold sampleBase; omega
    rw [hmem]
    exact (lookup_writeList_outside (.inr hscratch)).trans (lookup_writeList_outside (.inl hsample))

end Sys2Proof.Machine
end

section
/-! The answers to SEND's transmit requests (42_streamer.md R266 to R268), and the whole SEND cycle (R269, R281). -/

namespace Sys2Proof.Machine

/-! ### One answer (R266 to R268) -/

/-- The answer to a transmit request: success or failure, and the advance of both (R266 to R268). -/
def answerChunk (ok : Bool) (s : State) : State := advanceChunk (if ok then transmitOk s else transmitErr s)

/-- SEND's step on an answer to its outstanding request (R262, R266 to R268). -/
theorem exec_send_answer {s : State} {words : List Half} {ok : Bool} (ht : s.treq = .transmit words)
    (hc : s.commandStep = .answer (if ok then .txOk else .txErr)) :
    exec .send s = .next (answerChunk ok s.pop) := by
  simp only [exec, execSend, hc]
  cases ok <;> simp [sendAnswer, ht, answerChunk]

/-- Settles O21: the step is `answerChunk`, whose two records are those of the statement. -/
theorem transmitAnswersAdvanceTheCursor : Obligations.TransmitAnswersAdvanceTheCursor := by
  unfold Obligations.TransmitAnswersAdvanceTheCursor
  exact fun s words ht => ⟨exec_send_answer (ok := true) ht, exec_send_answer (ok := false) ht⟩

/-! ### One chunk: its preparation and its answer -/

/-- The state after a chunk's two steps: SEND_ISSUE prepares it, and the transport answers. -/
def sendChunk (ok : Bool) (s : State) : State := answerChunk ok (prepareChunk s.pop).pop

section SendChunk

variable (ok : Bool) (s : State)

@[simp] theorem sendChunk_seqState : (sendChunk ok s).seqState = .sendIssue := rfl
@[simp] theorem sendChunk_treq : (sendChunk ok s).treq = .none := rfl
@[simp] theorem sendChunk_inputs : (sendChunk ok s).inputs = s.inputs.tail.tail := by cases ok <;> rfl
@[simp] theorem sendChunk_current : (sendChunk ok s).current = s.current := by cases ok <;> rfl
@[simp] theorem sendChunk_payloadLen : (sendChunk ok s).payloadLen = s.payloadLen := by cases ok <;> rfl
@[simp] theorem sendChunk_capacity : (sendChunk ok s).capacity = s.capacity := by cases ok <;> rfl
@[simp] theorem sendChunk_pos : (sendChunk ok s).pos = s.pos + BitVec.ofNat 32 s.chunkSize := by cases ok <;> rfl
@[simp] theorem sendChunk_chunkIndex : (sendChunk ok s).chunkIndex = s.chunkIndex + 1 := by cases ok <;> rfl
@[simp] theorem sendChunk_bytesSent :
    (sendChunk ok s).bytesSent = s.bytesSent + BitVec.ofNat 32 (if ok then s.chunkSize else 0) := by
  cases ok
  · exact (BitVec.add_zero _).symm
  · rfl
@[simp] theorem sendChunk_txFails :
    (sendChunk ok s).txFails = s.txFails + BitVec.ofNat 32 (if ok then 0 else 1) := by
  cases ok
  · rfl
  · exact (BitVec.add_zero _).symm
@[simp] theorem sendChunk_reports : (sendChunk ok s).reports = s.reports ++
    [if ok then .chunk .txOk s.chunkIndex (BitVec.ofNat 32 s.chunkSize) else .chunk .txErr s.chunkIndex 0] := by
  cases ok <;> rfl
@[simp] theorem sendChunk_irqStatus :
    (sendChunk ok s).irqStatus = if ok then s.irqStatus else s.irqStatus ||| 0b0100#4 := by
  cases ok <;> rfl

end SendChunk

/-! ### The number and the sizes of the chunks (R269) -/

/-- `ceil(n / c)` chunks reach the end of the payload, and no fewer. -/
theorem chunkCount_le_iff {n c k : Nat} (hc : 0 < c) : (n + c - 1) / c ≤ k ↔ n ≤ k * c := by
  rw [← Nat.ceilDiv_eq_add_pred_div, ceilDiv_le_iff_le_mul hc, Nat.mul_comm]

/-- There is a chunk `k` exactly if it begins before the end of the payload. -/
theorem lt_chunkCount_iff {n c k : Nat} (hc : 0 < c) : k < (n + c - 1) / c ↔ k * c < n := by
  rw [← not_le, chunkCount_le_iff hc, not_le]

/-- The sizes of the successful and of the failed chunks together are what the chunks cover. -/
theorem selectedBytes_add_not (n c : Nat) : ∀ (k : Nat) (oks : List Bool),
    selectedBytes n c k oks + selectedBytes n c k (oks.map not) = min (n - k * c) (oks.length * c)
  | k, [] => by simp [selectedBytes]
  | k, ok :: oks => by
    have ih := selectedBytes_add_not n c (k + 1) oks
    have hone : (if ok then chunkSizeAt n c k else 0) + (if !ok then chunkSizeAt n c k else 0) = min (n - k * c) c := by
      cases ok <;> simp [chunkSizeAt]
    rw [Nat.succ_mul] at ih
    simp only [List.map_cons, selectedBytes, List.length_cons, Nat.succ_mul]
    omega

/-- Of failed chunks alone no byte is counted. -/
theorem selectedBytes_of_all_failed {n c : Nat} : ∀ {k : Nat} {oks : List Bool}, true ∉ oks →
    selectedBytes n c k oks = 0
  | _, [], _ => rfl
  | _, true :: _, h => absurd List.mem_cons_self h
  | k, false :: oks, h => by
    have hoks : true ∉ oks := fun hok => h (List.mem_cons_of_mem _ hok)
    simp [selectedBytes, selectedBytes_of_all_failed (k := k + 1) hoks]

/-- The sizes of all chunks make the length of the payload. -/
theorem selectedBytes_total {n c : Nat} {oks : List Bool} (hc : 0 < c) (hq : oks.length = (n + c - 1) / c) :
    selectedBytes n c 0 oks + selectedBytes n c 0 (oks.map not) = n := by
  have hend : n ≤ oks.length * c := (chunkCount_le_iff hc).1 hq.ge
  rw [selectedBytes_add_not]
  omega

/-- A chunk before the last has the size of the capacity. -/
theorem chunkSizeAt_of_lt {n c k : Nat} (hc : 0 < c) (h : k + 1 < (n + c - 1) / c) : chunkSizeAt n c k = c := by
  have hnext : (k + 1) * c < n := (lt_chunkCount_iff hc).1 h
  rw [Nat.succ_mul] at hnext
  unfold chunkSizeAt
  omega

/-- The last chunk has the rest of the payload, at least one byte and at most the capacity. -/
theorem chunkSizeAt_last {n c k : Nat} (hc : 0 < c) (h : k + 1 = (n + c - 1) / c) :
    chunkSizeAt n c k = n - k * c ∧ 1 ≤ n - k * c ∧ n - k * c ≤ c := by
  have hbegin : k * c < n := (lt_chunkCount_iff hc).1 (by omega)
  have hend : n ≤ (k + 1) * c := (chunkCount_le_iff hc).1 h.ge
  rw [Nat.succ_mul] at hend
  unfold chunkSizeAt
  omega

/-! ### The rest of a cycle, from chunk `k` on -/

/-- A SEND of `n` bytes at capacity `c` stands before chunk `k`, or, where there is none, before its completion. -/
structure SendAt (n c k : Nat) (s : State) : Prop where
  seqState : s.seqState = .sendIssue
  treq : s.treq = .none
  current : s.current = .command .send
  payloadLen : s.payloadLen.toNat = n
  capacity : s.capacity.toNat = c
  pos : s.pos.toNat = min n (k * c)
  chunkIndex : s.chunkIndex = BitVec.ofNat 32 k

/-- `t` is `s` after its chunks from `k` on were answered by `oks` and the SEND has completed. -/
structure SendDone (n c k : Nat) (oks : List Bool) (s t : State) : Prop where
  seqState : t.seqState = .idle
  treq : t.treq = .none
  pos : t.pos = s.payloadLen
  chunkIndex : t.chunkIndex = BitVec.ofNat 32 (k + oks.length)
  txFails : t.txFails = s.txFails + BitVec.ofNat 32 (oks.count false)
  bytesSent : t.bytesSent = s.bytesSent + BitVec.ofNat 32 (selectedBytes n c k oks)
  reports : t.reports = s.reports ++ sendReports n c k oks
  irqStatus : t.irqStatus = s.irqStatus ||| 0b0001#4 ||| (if oks.all id then 0b0000#4 else 0b0100#4)

/-- A step that is taken is the first of a run. -/
theorem runSteps_succ {s t : State} (h : step s = .next t) (k : Nat) : runSteps (k + 1) s = runSteps k t := by
  simp only [runSteps, h]

section SendCycle

variable {n c k : Nat} {s : State}

theorem SendAt.chunkSize (h : SendAt n c k s) : s.chunkSize = chunkSizeAt n c k := by
  unfold State.chunkSize chunkSizeAt
  rw [h.payloadLen, h.capacity, h.pos]
  omega

/-- The cursor is at the end of the payload exactly if no chunk is left. -/
theorem SendAt.pos_eq_iff (h : SendAt n c k s) : s.pos = s.payloadLen ↔ n ≤ k * c := by
  rw [← BitVec.toNat_inj, h.pos, h.payloadLen, min_eq_left_iff]

/-- The sequencer's turn in SEND_ISSUE. -/
theorem SendAt.step_sequencer (h : SendAt n c k s) (hin : s.inputs.head? = some .sequencer) :
    step s = .next (sendIssueStep s.pop) := by
  obtain ⟨hturn, hc⟩ := sequencerTurn (.inr hin)
  rw [step_busy hturn (by simp [h.seqState]) h.current, exec_sendIssue hc h.seqState]

/-- A chunk takes two steps, whatever the answer. -/
theorem SendAt.runSteps_chunk {ok : Bool} {r : List Input} (h : SendAt n c k s) (hlt : k * c < n)
    (hin : s.inputs = .sequencer :: .transport (if ok then .txOk else .txErr) :: r) (m : Nat) :
    runSteps (m + 2) s = runSteps m (sendChunk ok s) := by
  have hprepare : step s = .next (prepareChunk s.pop) := by
    rw [h.step_sequencer (by simp [hin])]
    exact congrArg _ (if_neg fun hend => Nat.not_le.2 hlt (h.pos_eq_iff.1 hend))
  have hhead : (prepareChunk s.pop).inputs.head? = some (.transport (if ok then .txOk else .txErr)) :=
    congrArg (fun l : List Input => l.tail.head?) hin
  obtain ⟨hturn, hc⟩ := transportTurn hhead
  have hbusy : (prepareChunk s.pop).seqState ≠ .idle := by simp [prepareChunk]
  have hanswer : step (prepareChunk s.pop) = .next (sendChunk ok s) := by
    rw [step_busy hturn hbusy h.current]
    exact exec_send_answer rfl hc
  rw [runSteps_succ hprepare, runSteps_succ hanswer]

/-- After chunk `k` the cycle stands before the next one. -/
theorem SendAt.next (h : SendAt n c k s) (ok : Bool) : SendAt n c (k + 1) (sendChunk ok s) where
  seqState := rfl
  treq := rfl
  current := by rw [sendChunk_current, h.current]
  payloadLen := by rw [sendChunk_payloadLen, h.payloadLen]
  capacity := by rw [sendChunk_capacity, h.capacity]
  pos := by
    have hlen := s.payloadLen.isLt
    have hsucc : (k + 1) * c = k * c + c := Nat.succ_mul k c
    rw [h.payloadLen] at hlen
    rw [sendChunk_pos, BitVec.toNat_add, BitVec.toNat_ofNat, h.chunkSize, h.pos]
    unfold chunkSizeAt
    omega
  chunkIndex := by
    rw [sendChunk_chunkIndex, h.chunkIndex, BitVec.ofNat_add]
    rfl

/-- The completing step. -/
theorem SendAt.completed (h : SendAt n c k s) (hend : n ≤ k * c) : SendDone n c k [] s (complete s.pop) where
  seqState := rfl
  treq := h.treq
  pos := h.pos_eq_iff.2 hend
  chunkIndex := h.chunkIndex
  txFails := (BitVec.add_zero _).symm
  bytesSent := (BitVec.add_zero _).symm
  reports := (List.append_nil _).symm
  irqStatus := (BitVec.or_zero).symm

/-- What the rest of the cycle does after chunk `k` is what the cycle does from chunk `k` on. -/
theorem SendDone.cons {ok : Bool} {oks : List Bool} {t : State} (h : SendAt n c k s)
    (ht : SendDone n c (k + 1) oks (sendChunk ok s) t) : SendDone n c k (ok :: oks) s t where
  seqState := ht.seqState
  treq := ht.treq
  pos := ht.pos.trans (sendChunk_payloadLen ok s)
  chunkIndex := by rw [ht.chunkIndex, List.length_cons, Nat.add_assoc, Nat.add_comm 1]
  txFails := by
    rw [ht.txFails, sendChunk_txFails, BitVec.add_assoc, ← BitVec.ofNat_add]
    cases ok <;> simp [Nat.add_comm]
  bytesSent := by
    rw [ht.bytesSent, sendChunk_bytesSent, BitVec.add_assoc, ← BitVec.ofNat_add, h.chunkSize, selectedBytes]
  reports := by
    rw [ht.reports, sendChunk_reports, List.append_assoc, h.chunkIndex, h.chunkSize, sendReports, List.singleton_append]
  irqStatus := by
    have hset : ∀ x y : BitVec 4, y = 0b0000#4 ∨ y = 0b0100#4 →
        x ||| 0b0100#4 ||| 0b0001#4 ||| y = x ||| 0b0001#4 ||| 0b0100#4 := by decide
    rw [ht.irqStatus, sendChunk_irqStatus]
    cases ok
    · exact hset _ _ (by split <;> simp)
    · rfl

/-- From chunk `k` on the cycle runs to its completion, two steps for each answer and one to complete. -/
theorem SendAt.runSteps_cycle {rest : List Input} (hc : 0 < c) : ∀ {k : Nat} {s : State} (oks : List Bool),
    SendAt n c k s → k + oks.length = (n + c - 1) / c → s.inputs = sendTurns oks rest →
    ∃ t, runSteps (1 + 2 * oks.length) s = .next t ∧ t.inputs = rest ∧ SendDone n c k oks s t
  | k, s, [], h, hk, hin => by
    have hend : n ≤ k * c := (chunkCount_le_iff hc).1 hk.ge
    have hstep : step s = .next (complete s.pop) := by
      rw [h.step_sequencer (by simp [hin, sendTurns])]
      exact congrArg _ (if_pos (h.pos_eq_iff.2 hend))
    exact ⟨_, runSteps_succ hstep 0, by simp [hin, sendTurns], h.completed hend⟩
  | k, s, ok :: oks, h, hk, hin => by
    have hlt : k * c < n := (lt_chunkCount_iff hc).1 (by simp at hk; omega)
    obtain ⟨t, hrun, hrest, hdone⟩ := SendAt.runSteps_cycle (rest := rest) hc oks (h.next ok)
      (by simp at hk; omega) (by simp [hin, sendTurns])
    exact ⟨t, (h.runSteps_chunk hlt hin _).trans hrun, hrest, hdone.cons h⟩

/-- The 32-bit counters of a cycle that began at 0 are exact: every chunk has at least one byte, and the sizes add up to
the length of the payload, which is a 32-bit number. -/
theorem SendDone.counters {oks : List Bool} {t : State} (h : SendDone n c 0 oks s t) (hf : s.txFails = 0)
    (hb : s.bytesSent = 0) (hc : 0 < c) (hq : oks.length = (n + c - 1) / c) (hn : n < 2 ^ 32) :
    t.chunkIndex.toNat = oks.length ∧ t.txFails.toNat = oks.count false ∧
      t.bytesSent.toNat = selectedBytes n c 0 oks := by
  have hlen : oks.length ≤ n := hq.trans_le ((chunkCount_le_iff hc).2 (Nat.le_mul_of_pos_right n hc))
  have hcount : oks.count false ≤ oks.length := List.count_le_length
  have htotal := selectedBytes_total hc hq
  refine ⟨?_, ?_, ?_⟩
  · rw [h.chunkIndex, Nat.zero_add]
    exact Nat.mod_eq_of_lt (hlen.trans_lt hn)
  · rw [h.txFails, hf, BitVec.ofNat_eq_ofNat, BitVec.zero_add]
    exact Nat.mod_eq_of_lt (by omega)
  · rw [h.bytesSent, hb, BitVec.ofNat_eq_ofNat, BitVec.zero_add]
    exact Nat.mod_eq_of_lt (by omega)

end SendCycle

/-! ### The whole cycle (R264 to R269) -/

/-- SEND's accepted issue puts the cycle before chunk 0 with its counters cleared (R264). -/
theorem sendAt_start (s : State) (ht : s.treq = .none) :
    SendAt s.payloadLen.toNat s.capacity.toNat 0 (clearSendCounters (start .send (s.answerHost .ack))) where
  seqState := rfl
  treq := ht
  current := start_current (c := encode .send) rfl (s.answerHost .ack)
  payloadLen := rfl
  capacity := rfl
  pos := by simp
  chunkIndex := rfl

/-- The issue of SEND at an idle block with a legal configuration (R201, R264). -/
theorem step_sendIssued {s : State} (hi : s.seqState = .idle) (hcap : s.capOk)
    (hlen : s.payloadLen.toNat ≤ s.params.payloadBytes) (hw : s.inputs.head? = some (cmdWrite (encode .send))) :
    step s = .next (clearSendCounters (start .send (s.answerHost .ack))) := by
  have hconfig : badConfig .send s = false := by simpa [badConfig] using And.intro hcap hlen
  rw [step_cmdWrite hw rfl, exec_issue _ _ (commandStep_of_cmdWrite hw), if_pos (issueError_of_legal hi hconfig rfl)]
  rfl

/-- Settles O22: the issue, then the run of the cycle by induction on the answers; the 32-bit counters are exact, since
a chunk has at least one byte and the sizes add up to the length of the payload. -/
theorem sendCycleMakesCeilManyCalls : Obligations.SendCycleMakesCeilManyCalls := by
  unfold Obligations.SendCycleMakesCeilManyCalls
  rintro s oks rest n c rfl rfl - hi ht hcap hlen hq hin
  obtain ⟨-, htwo, -⟩ := id hcap
  have hc : 0 < s.capacity.toNat := by omega
  have hissue := step_sendIssued hi hcap hlen (by simp [hin])
  obtain ⟨t, hrun, hrest, hdone⟩ :=
    (sendAt_start s ht).runSteps_cycle hc oks ((Nat.zero_add _).trans hq) (congrArg List.tail hin)
  obtain ⟨hindex, hfails, hbytes⟩ := hdone.counters rfl rfl hc hq s.payloadLen.isLt
  have htotal := selectedBytes_total hc hq
  rw [← hbytes] at htotal
  refine ⟨t, ?_, hdone.seqState, hrest, hdone.treq, hdone.pos, hindex, hfails, hbytes, htotal, hdone.reports,
    hdone.irqStatus, fun hall => ?_, fun hnone => ⟨?_, ?_⟩, fun k hk => chunkSizeAt_of_lt hc (hk.trans_eq hq),
    fun k hk => chunkSizeAt_last hc (hk.trans hq)⟩
  · rw [show 2 + 2 * oks.length = 1 + 2 * oks.length + 1 by omega, runSteps_succ hissue, hrun]
  · rwa [selectedBytes_of_all_failed (by simpa using hall), Nat.add_zero] at htotal
  · rw [← BitVec.toNat_inj, hbytes, selectedBytes_of_all_failed hnone]
    rfl
  · rw [hfails, List.count_eq_length]
    intro ok hok
    cases ok
    · rfl
    · exact absurd hok hnone

end Sys2Proof.Machine
end

section
/-! The steps of RECV and RECV_ANALYZE (42_streamer.md R272 to R278). -/

namespace Sys2Proof.Machine

/-- What a successful receive goes on to: RECV completes, RECV_ANALYZE analyses (R273). -/
def afterReceive (i : Instr) : State → State := if i = .recv then complete else toRxAnalyze

section Receive

variable {i : Instr} {s : State} (hi : i = .recv ∨ i = .recvAnalyze)
include hi

/-- The RX_ISSUE step (R272). -/
theorem exec_rxIssue (hc : s.commandStep = .sequencer) (hs : s.seqState = .rxIssue) :
    exec i s = .next (receiveRequest s.pop) := by
  rcases hi with rfl | rfl
  · simp [exec, execRecv, recvTurn, hc, hs]
  · simp [exec, execRecvAnalyze, recvAnalyzeTurn, hc, hs]

/-- A transport answer (R262). -/
theorem exec_receive_answer {a : Answer} (hc : s.commandStep = .answer a) :
    exec i s = .next (receiveAnswer (afterReceive i) a s.pop) := by
  rcases hi with rfl | rfl
  · simp [exec, execRecv, hc, afterReceive]
  · simp [exec, execRecvAnalyze, hc, afterReceive]

/-- The answer of a successful receive (R273). -/
theorem exec_rxOk {n : Nat} {d : List Byte} (hc : s.commandStep = .answer (.rxOk d)) (ht : s.treq = .receive n)
    (hn : d.length ≤ n) : exec i s = .next (afterReceive i (receiveOk d s.pop)) := by
  rw [exec_receive_answer hi hc]
  simp [receiveAnswer, ht, hn]

/-- The answer of a failed receive (R274). -/
theorem exec_rxErr {n : Nat} (hc : s.commandStep = .answer .rxErr) (ht : s.treq = .receive n) :
    exec i s = .next (receiveErr s.pop) := by
  rw [exec_receive_answer hi hc]
  simp [receiveAnswer, ht]

end Receive

/-- Settles O23: the step is `receiveRequest`. -/
theorem receiveIsRequestedOnce : Obligations.ReceiveIsRequestedOnce :=
  fun _ _ hi hc hs => exec_rxIssue hi hc hs

/-- What follows a successful receive leaves the memories alone. -/
@[simp] theorem afterReceive_mem (i : Instr) (s : State) : (afterReceive i s).mem = s.mem := by
  unfold afterReceive
  split <;> rfl

/-- Settles O24: the step is `receiveOk` and what follows it, and `receiveOk` writes scratch by `writeScratch`. -/
theorem receivedBytesReachScratch : Obligations.ReceivedBytesReachScratch := by
  unfold Obligations.ReceivedBytesReachScratch
  intro i s n d hi hc ht hn
  have hmem : (afterReceive i (receiveOk d s.pop)).mem = writeScratch s.mem d := afterReceive_mem i _
  refine ⟨_, exec_rxOk hi hc ht hn, ?_, fun j hj => ?_, fun a ha => ?_⟩
  · rcases hi with rfl | rfl <;> rfl
  · rw [scratchAt_writeScratch hmem hj, List.getElem?_eq_getElem hj]
  · rw [hmem]
    exact lookup_writeList_outside ha

/-- Settles O25: the step is `receiveErr`, for both commands. -/
theorem failedReceiveCompletesWithoutAnalysis : Obligations.FailedReceiveCompletesWithoutAnalysis :=
  fun _ _ _ hi hc ht => exec_rxErr hi hc ht

/-- ANALYZE's EXEC step (R208, R310). -/
theorem exec_analyze {l : Nat} {s : State} (hc : s.commandStep = .sequencer) (hs : s.seqState = .exec) :
    exec (.analyze l) s = .next (complete (analyseAction l s.pop)) := by
  simp [exec, execAnalyze, execStep, hc, hs]

/-- RECV_ANALYZE's RX_ANALYZE step (R277). -/
theorem exec_rxAnalyze {s : State} (hc : s.commandStep = .sequencer) (hs : s.seqState = .rxAnalyze) :
    exec .recvAnalyze s = .next (complete (analyseAction s.blockBytes.toNat s.pop)) := by
  simp [exec, execRecvAnalyze, recvAnalyzeTurn, hc, hs]

/-- Settles O30: both steps are the analysis of BLOCK_BYTES bytes and `complete`, which overwrites SEQ_STATE, the one
field in which the two states differ. -/
theorem rxAnalyzeAnalysesTheBlock : Obligations.RxAnalyzeAnalysesTheBlock := by
  unfold Obligations.RxAnalyzeAnalysesTheBlock
  intro s hc hs
  exact ⟨_, exec_rxAnalyze hc hs, exec_analyze (s := { s with seqState := .exec }) hc rfl, rfl, rfl, rfl⟩

end Sys2Proof.Machine
end

section
/-! The Signal Analyzer's values (43_analyzer.md R311 to R320): the samples read from scratch, the extremes, blocks of
equal samples, and what the commit's registers hold. -/

namespace Sys2Proof.Machine

/-- The `k`-th sample is the pair of bytes at `2 k` (R311). -/
theorem getElem_samplesOf (bo : ByteOrder) : ∀ (b : List Byte) (k : Nat) (h : k < (samplesOf bo b).length),
    (samplesOf bo b)[k] = (pack2 bo (b[2 * k]'(by simp at h; omega)) (b[2 * k + 1]'(by simp at h; omega))).toInt
  | b0 :: b1 :: r, 0, _ => by simp [samplesOf]
  | b0 :: b1 :: r, k + 1, h => by
    have hk : k < (samplesOf bo r).length := by simpa [samplesOf] using h
    simpa [samplesOf, Nat.mul_add] using getElem_samplesOf bo r k hk
  | [], _, h => absurd h (by simp)
  | [_], _, h => absurd h (by simp)

/-- The samples an analysis reads from scratch (R311). -/
theorem samplesOf_readScratch (s : State) (l : Nat) : samplesOf s.byteOrder (s.readScratch l) =
    (List.range (l / 2)).map
      fun k => (pack2 s.byteOrder (s.scratchAt (2 * k)) (s.scratchAt (2 * k + 1))).toInt :=
  List.ext_getElem (by simp) fun k _ _ => by simp [getElem_samplesOf]

/-! ### The extremes (R316) -/

theorem natAbs_le_maxAbsOf {xs : List Int} {x : Int} (hx : x ∈ xs) : x.natAbs ≤ maxAbsOf xs := by
  induction hx with
  | head r => simp [maxAbsOf, absOf]
  | tail y _ ih => exact ih.trans (by simp [maxAbsOf, absOf])

theorem exists_natAbs_eq_maxAbsOf {xs : List Int} (h : xs ≠ []) : ∃ x ∈ xs, x.natAbs = maxAbsOf xs := by
  induction xs with
  | nil => exact absurd rfl h
  | cons y r ih =>
    have hcons : maxAbsOf (y :: r) = max y.natAbs (maxAbsOf r) := rfl
    rcases le_total (maxAbsOf r) y.natAbs with hle | hle
    · exact ⟨y, by simp, by rw [hcons, max_eq_left hle]⟩
    · rcases eq_or_ne r [] with rfl | hr
      · exact ⟨y, by simp, by simp [maxAbsOf, absOf]⟩
      · obtain ⟨x, hx, hmax⟩ := ih hr
        exact ⟨x, by simp [hx], by rw [hcons, max_eq_right hle, hmax]⟩

theorem minOf_le {xs : List Int} {x : Int} (hx : x ∈ xs) : minOf xs ≤ x := by
  induction hx with
  | head r => simp [minOf]
  | tail y _ ih => exact (by simp [minOf] : minOf _ ≤ _).trans ih

/-- The minimum of a block of 16-bit samples is one of them: none exceeds the empty block's 32767. -/
theorem minOf_mem {xs : List Int} (hb : ∀ x ∈ xs, -32768 ≤ x ∧ x ≤ 32767) (h : xs ≠ []) :
    minOf xs ∈ xs := by
  induction xs with
  | nil => exact absurd rfl h
  | cons y r ih =>
    have hcons : minOf (y :: r) = min y (minOf r) := rfl
    rcases le_total y (minOf r) with hle | hle
    · simp [hcons, min_eq_left hle]
    · rcases eq_or_ne r [] with rfl | hr
      · have := (hb y (by simp)).2
        simp [minOf, this]
      · rw [hcons, min_eq_right hle]
        exact List.mem_cons_of_mem y (ih (fun x hx => hb x (List.mem_cons_of_mem y hx)) hr)

theorem maxAbsOf_eq_of_mem {xs : List Int} (hb : ∀ x ∈ xs, -32768 ≤ x ∧ x ≤ 32767) (h : -32768 ∈ xs) :
    maxAbsOf xs = 32768 :=
  (maxAbsOf_le hb).antisymm (natAbs_le_maxAbsOf h)

/-! ### Blocks of equal samples -/

theorem activeOf_eq_filter (noise : Nat) (xs : List Int) :
    activeOf noise xs = (xs.filter fun x => decide (noise < x.natAbs)).length := by
  rw [activeOf, absOf, List.countP_map, List.countP_eq_length_filter]
  rfl

theorem activeOf_replicate (noise k : Nat) (v : Int) :
    activeOf noise (List.replicate k v) = if noise < v.natAbs then k else 0 := by
  simp [activeOf, absOf, List.countP_replicate]

theorem sumOf_replicate (k : Nat) (v : Int) : sumOf (List.replicate k v) = k * v.natAbs := by
  simp [sumOf, absOf]

theorem avgOf_replicate {k : Nat} (hk : 0 < k) (v : Int) : avgOf (List.replicate k v) = v.natAbs := by
  simp [avgOf, sumOf_replicate, hk.ne']

/-! ### What the registers of a commit hold (R65 to R70) -/

section Registers

variable (bo : ByteOrder) (noise sb mb ab : Nat) (bytes : List Byte)

@[simp] theorem toNat_statsOf_maxAbs :
    (statsOf bo noise sb mb ab bytes).maxAbs.toNat = maxAbsOf (samplesOf bo bytes) := by
  have := maxAbsOf_le (samplesOf_bounds bo bytes)
  simp only [statsOf, BitVec.toNat_ofNat]; omega

@[simp] theorem toInt_statsOf_minRaw :
    (statsOf bo noise sb mb ab bytes).minRaw.toInt = minOf (samplesOf bo bytes) :=
  toInt_signExtend_minimum (minOf_bounds (samplesOf_bounds bo bytes))

@[simp] theorem toNat_statsOf_avgAbs :
    (statsOf bo noise sb mb ab bytes).avgAbs.toNat = avgOf (samplesOf bo bytes) := by
  have := avgOf_le (samplesOf_bounds bo bytes)
  simp only [statsOf, BitVec.toNat_ofNat]; omega

variable {bytes} (h : bytes.length ≤ 65536)
include h

theorem toNat_statsOf_sampleCount : (statsOf bo noise sb mb ab bytes).sampleCount.toNat = bytes.length / 2 := by
  simp only [statsOf, BitVec.toNat_ofNat, length_samplesOf]; omega

theorem toNat_statsOf_activeCount :
    (statsOf bo noise sb mb ab bytes).activeCount.toNat = activeOf noise (samplesOf bo bytes) := by
  have := activeOf_le noise (samplesOf bo bytes)
  rw [length_samplesOf] at this
  simp only [statsOf, BitVec.toNat_ofNat]; omega

theorem toNat_statsOf_sumAbs : (statsOf bo noise sb mb ab bytes).sumAbs.toNat = sumOf (samplesOf bo bytes) := by
  have := sumOf_le (samplesOf_bounds bo bytes)
  rw [length_samplesOf] at this
  simp only [statsOf, BitVec.toNat_ofNat]; omega

end Registers

/-- The statistics of a block with no sample (R319). -/
theorem statsOf_empty {bo : ByteOrder} {bytes : List Byte} (h : samplesOf bo bytes = []) (noise sb mb ab : Nat) :
    statsOf bo noise sb mb ab bytes =
      { sampleCount := 0, activeCount := 0, sumAbs := 0, maxAbs := 0, minRaw := 0x00007FFF#32, avgAbs := 0,
        activeRatio := 0, strength := .none } := by
  simp [statsOf, h, activeOf, sumOf, absOf, maxAbsOf, minOf, avgOf, ratioBits, classify]

/-- The class of a block of equal samples (R318). -/
theorem strength_of_replicate {bo : ByteOrder} {bytes : List Byte} {k : Nat} {v : Int}
    (h : samplesOf bo bytes = List.replicate k v) (hk : 0 < k) (noise sb mb ab : Nat) :
    (statsOf bo noise sb mb ab bytes).strength = classify sb mb ab v.natAbs (if noise < v.natAbs then k else 0) := by
  simp only [statsOf, h, avgOf_replicate hk, activeOf_replicate]

/-- ANALYZE's EXEC step, as one record (R208, R210, R320). -/
theorem exec_analyze_eq {l : Nat} {s : State} (hc : s.commandStep = .sequencer) (hs : s.seqState = .exec) :
    exec (.analyze l) s = .next { s with
      inputs := s.inputs.tail
      stats := s.statsFor (s.readScratch l)
      statsValid := true
      reports := s.reports ++ [.stats (s.statsFor (s.readScratch l))]
      seqState := .idle
      irqStatus := s.irqStatus ||| 0b0001#4
      draws := s.draws + 1 } :=
  exec_analyze hc hs

/-- Settles O27: the samples are those of `samplesOf`, and every register holds its exact value. -/
theorem analyzeCommitsTheStatistics : Obligations.AnalyzeCommitsTheStatistics := by
  unfold Obligations.AnalyzeCommitsTheStatistics
  intro l s xs hc hs hl hxs
  rw [← samplesOf_readScratch] at hxs
  subst hxs
  have hlen : (s.readScratch l).length ≤ 65536 := by simpa
  have hb := samplesOf_bounds s.byteOrder (s.readScratch l)
  refine ⟨_, exec_analyze_eq hc hs, rfl, ?_⟩
  simp only [State.statsFor, toNat_statsOf_sampleCount _ _ _ _ _ hlen, toNat_statsOf_activeCount _ _ _ _ _ hlen,
    toNat_statsOf_sumAbs _ _ _ _ _ hlen, toNat_statsOf_maxAbs, toInt_statsOf_minRaw, toNat_statsOf_avgAbs,
    length_readScratch]
  refine ⟨trivial, activeOf_eq_filter _ _, rfl, fun x hx => ?_, fun hne => ?_, fun hne => ?_, fun hnil => ?_⟩
  · have := hb x hx
    exact ⟨by omega, natAbs_le_maxAbsOf hx, minOf_le hx⟩
  · exact ⟨exists_natAbs_eq_maxAbsOf hne, _, minOf_mem hb hne, rfl⟩
  · rw [avgOf, if_neg (mt List.eq_nil_of_length_eq_zero hne), length_samplesOf, length_readScratch]
    rfl
  · rw [statsOf_empty hnil, hnil]
    exact ⟨rfl, rfl, rfl⟩

/-- Settles O28: the registers that the class and the ratio are stated of hold the exact values they are computed
from. -/
theorem committedClassAndRatio : Obligations.CommittedClassAndRatio := by
  unfold Obligations.CommittedClassAndRatio
  intro l s hc hs hl
  have hlen : (s.readScratch l).length ≤ 65536 := by simpa
  refine ⟨_, exec_analyze_eq hc hs, ?_⟩
  simp only [State.statsFor, toNat_statsOf_sampleCount _ _ _ _ _ hlen, toNat_statsOf_activeCount _ _ _ _ _ hlen,
    toNat_statsOf_avgAbs]
  rw [← length_samplesOf s.byteOrder]
  exact ⟨rfl, rfl⟩

/-- Settles O31: fewer than two bytes are no sample. -/
theorem emptyBlockStatistics : Obligations.EmptyBlockStatistics := by
  unfold Obligations.EmptyBlockStatistics
  intro l s hc hs hl
  have hnil : samplesOf s.byteOrder (s.readScratch l) = [] := List.eq_nil_of_length_eq_zero (by simp; omega)
  refine ⟨_, exec_analyze_eq hc hs, ?_⟩
  simp only [State.statsFor, statsOf_empty hnil, and_self]

/-- Settles O32: the average of equal samples is their absolute value, and all or none of them are active. -/
theorem classificationBoundaries : Obligations.ClassificationBoundaries := by
  unfold Obligations.ClassificationBoundaries
  intro bo noise k v bytes hk _ h
  simp only [strength_of_replicate h hk, classify]
  refine ⟨fun hv => ?_, fun hv => ?_, fun hv hn => ?_, fun hv hn => ?_, fun hv => ?_⟩
  · simp [hv]
  · rcases hv with hv | hv <;> simp [hv]
  · simp [hv, hn]
  · simp [hv, hn.not_gt]
  · simp [hv]

/-- Settles O33: the absolute value 32768 is the greatest there is, and the average of equal samples is theirs. -/
theorem mostNegativeSampleDoesNotOverflow : Obligations.MostNegativeSampleDoesNotOverflow := by
  unfold Obligations.MostNegativeSampleDoesNotOverflow
  intro bo noise sb mb ab bytes _
  refine ⟨fun hmem => BitVec.eq_of_toNat_eq ?_, fun k hk h => ⟨?_, ?_, ?_, fun hsb => ?_⟩⟩
  · rw [toNat_statsOf_maxAbs, maxAbsOf_eq_of_mem (samplesOf_bounds bo bytes) hmem]
    rfl
  · simp only [statsOf, h, sumOf_replicate, Nat.mul_comm]
    rfl
  · simp only [statsOf, h, avgOf_replicate hk]
    rfl
  · have hmin := minOf_mem (samplesOf_bounds bo bytes) (by simp [h, hk.ne'])
    rw [h, List.mem_replicate] at hmin
    simp only [statsOf, h, hmin.2]
    rfl
  · simp [strength_of_replicate h hk, classify, hsb]

/-- Settles O34: equal bytes and equal configuration are equal operands of `statsOf`. -/
theorem analysisReadsOnlyItsOperands : Obligations.AnalysisReadsOnlyItsOperands := by
  unfold Obligations.AnalysisReadsOnlyItsOperands
  intro l s t hcs hct hss hst hbytes hbo hnoise hsb hmb hab
  have hread : s.readScratch l = t.readScratch l :=
    List.ext_getElem (by simp) fun i hi _ => by simpa using hbytes i (by simpa using hi)
  refine ⟨_, _, exec_analyze_eq hcs hss, exec_analyze_eq hct hst, ?_⟩
  simp only [State.statsFor, hread, hbo, hnoise, hsb, hmb, hab]

end Sys2Proof.Machine
end

section
/-! The ratio of the Signal Analyzer (43_analyzer.md R321): the rounding, the scale, the pattern's value, and that no
binary32 pattern is nearer. -/

namespace Sys2Proof.Machine

/-! ### Rounding to the nearest integer, ties to even -/

theorem le_divNearestEven {m n d : Nat} (hd : 0 < d) (h : m * d ≤ n) : m ≤ divNearestEven n d := by
  have hm : m ≤ n / d := (Nat.le_div_iff_mul_le hd).2 h
  unfold divNearestEven
  split_ifs <;> omega

theorem divNearestEven_le {m n d : Nat} (hd : 0 < d) (h : n ≤ m * d) : divNearestEven n d ≤ m := by
  have hdiv := Nat.div_add_mod n d
  have hle : n / d ≤ m := Nat.div_le_of_le_mul (by rwa [mul_comm])
  rcases hle.lt_or_eq with hlt | heq
  · unfold divNearestEven
    split_ifs <;> omega
  · have hrem : n % d = 0 := by rw [heq, mul_comm] at hdiv; omega
    rw [divNearestEven, if_pos (by omega), heq]

/-- A rounded quotient is off by at most one half, and by one half only if it is even. -/
theorem divNearestEven_error {n d : Nat} (hd : 0 < d) :
    2 * |(divNearestEven n d * d - n : ℤ)| < d ∨
      2 * |(divNearestEven n d * d - n : ℤ)| = d ∧ divNearestEven n d % 2 = 0 := by
  have hdiv : (n / d : ℕ) * (d : ℤ) + (n % d : ℕ) = n := by
    rw [mul_comm]
    exact_mod_cast Nat.div_add_mod n d
  have hmod : n % d < d := Nat.mod_lt n hd
  have hdown : ((n / d : ℕ) * d - n : ℤ) = -(n % d : ℕ) := by linarith
  have hup : ((n / d + 1 : ℕ) * d - n : ℤ) = d - (n % d : ℕ) := by push_cast at hdiv ⊢; linarith
  unfold divNearestEven
  split_ifs
  · rw [hdown, abs_neg, Nat.abs_cast]; omega
  · rw [hup, abs_of_nonneg (by omega)]; omega
  · rw [hdown, abs_neg, Nat.abs_cast]; omega
  · rw [hup, abs_of_nonneg (by omega)]; omega

/-- The distance of `m` units from `n / d` units. -/
theorem abs_sub_div_natCast {d : Nat} (hd : 0 < d) {u : ℚ} (hu : 0 < u) (m n : Nat) :
    |m * u - n / d * u| = (|(m * d - n : ℤ)| : ℤ) * (u / d) := by
  have hd' : (0 : ℚ) < d := by exact_mod_cast hd
  rw [← sub_mul, sub_div' hd'.ne', abs_mul, abs_div, abs_of_pos hd', abs_of_pos hu, div_mul_eq_mul_div, mul_div_assoc]
  push_cast
  rfl

/-- In any unit, no integer is nearer to a quotient than the rounded one, and another one as near leaves it even. -/
theorem divNearestEven_nearest {d : Nat} (hd : 0 < d) {u : ℚ} (hu : 0 < u) (n m : Nat) :
    |divNearestEven n d * u - n / d * u| ≤ |m * u - n / d * u| ∧
      (|divNearestEven n d * u - n / d * u| = |m * u - n / d * u| →
        m ≠ divNearestEven n d → divNearestEven n d % 2 = 0) := by
  have hunit : 0 < u / d := div_pos hu (by exact_mod_cast hd)
  rw [abs_sub_div_natCast hd hu, abs_sub_div_natCast hd hu, mul_le_mul_iff_of_pos_right hunit,
    mul_left_inj' hunit.ne', Int.cast_le, Int.cast_inj]
  rcases eq_or_ne m (divNearestEven n d) with rfl | hne
  · exact ⟨le_rfl, fun _ h => absurd rfl h⟩
  · have hapart : (d : ℤ) ≤ |(m * d - divNearestEven n d * d : ℤ)| := by
      rw [← sub_mul, abs_mul, Nat.abs_cast]
      exact le_mul_of_one_le_left (by omega) (Int.one_le_abs (by omega))
    have htriangle := abs_sub_le (m * d : ℤ) n (divNearestEven n d * d)
    rw [abs_sub_comm (n : ℤ)] at htriangle
    rcases divNearestEven_error hd (n := n) with hlt | ⟨heq, heven⟩
    · exact ⟨by omega, fun h => by omega⟩
    · exact ⟨by omega, fun _ _ => heven⟩

/-! ### The scale of a ratio -/

theorem le_mul_ratioScale : ∀ {fuel a k : Nat}, k ≤ a * 2 ^ fuel → k ≤ a * 2 ^ ratioScale fuel a k
  | 0, _, _, h => h
  | fuel + 1, a, k, h => by
    rw [ratioScale]
    split_ifs with hk
    · simpa
    · have ih := le_mul_ratioScale (fuel := fuel) (a := 2 * a) (k := k) (by rw [pow_succ] at h; linarith)
      rw [pow_succ]; linarith

theorem mul_ratioScale_lt : ∀ {fuel a k : Nat}, a < 2 * k → a * 2 ^ ratioScale fuel a k < 2 * k
  | 0, _, _, h => by simpa [ratioScale]
  | fuel + 1, a, k, h => by
    rw [ratioScale]
    split_ifs with hk
    · simpa
    · have ih := mul_ratioScale_lt (fuel := fuel) (a := 2 * a) (k := k) (by omega)
      rw [pow_succ]; linarith

theorem ratioScale_le : ∀ {fuel m a k : Nat}, k ≤ a * 2 ^ m → ratioScale fuel a k ≤ m
  | 0, _, _, _, _ => Nat.zero_le _
  | fuel + 1, m, a, k, h => by
    rw [ratioScale]
    split_ifs with hk
    · exact Nat.zero_le m
    · cases m with
      | zero => simp at h; omega
      | succ m =>
        have ih := ratioScale_le (fuel := fuel) (m := m) (a := 2 * a) (k := k) (by rw [pow_succ] at h; linarith)
        omega

/-! ### The values of binary32 patterns -/

/-- The spacing of the binary32 values of biased exponent `c`. -/
def binary32Ulp (c : Nat) : ℚ := 2 ^ c / 2 ^ 150

theorem binary32Ulp_pos (c : Nat) : 0 < binary32Ulp c := by unfold binary32Ulp; positivity

/-- The value of the pattern of biased exponent `c` and significand `N`; a significand of `2^24` carries into the
exponent. -/
theorem binary32Value_of_significand {c N : Nat} {w : Word} (hc : 1 ≤ c) (hlo : 2 ^ 23 ≤ N) (hhi : N ≤ 2 ^ 24)
    (hw : w.toNat = c * 2 ^ 23 + (N - 2 ^ 23)) : binary32Value w = N * binary32Ulp c := by
  unfold binary32Value binary32Ulp
  rcases hhi.lt_or_eq with hlt | rfl
  · have hexp : w.toNat / 2 ^ 23 = c := by omega
    have hfrac : 2 ^ 23 + w.toNat % 2 ^ 23 = N := by omega
    rw [hexp, hfrac, if_neg (by omega)]
    ring
  · have hexp : w.toNat / 2 ^ 23 = c + 1 := by omega
    have hfrac : w.toNat % 2 ^ 23 = 0 := by omega
    rw [hexp, hfrac, if_neg (by omega)]
    push_cast
    ring

/-- The values of smaller biased exponents, the subnormal ones among them, are below those of biased exponent `c`. -/
theorem binary32Value_lt {c : Nat} {w : Word} (h : w.toNat / 2 ^ 23 < c) :
    binary32Value w < (2 ^ 23 : ℕ) * binary32Ulp c := by
  have htwice : (2 : ℚ) ^ (w.toNat / 2 ^ 23) * 2 ≤ 2 ^ c := by
    rw [← pow_succ]
    exact pow_le_pow_right₀ one_le_two h
  rw [Nat.cast_pow, Nat.cast_ofNat, binary32Ulp, ← mul_div_assoc, lt_div_iff₀ (by positivity), binary32Value]
  split_ifs with hsub
  · have hfrac : (w.toNat : ℚ) < 2 ^ 23 := by
      have : w.toNat < 2 ^ 23 := by omega
      exact_mod_cast this
    rw [hsub, pow_zero, one_mul] at htwice
    calc (w.toNat : ℚ) / 2 ^ 149 * 2 ^ 150 = w.toNat * 2 := by ring
      _ < 2 ^ 23 * 2 := by linarith
      _ ≤ 2 ^ 23 * 2 ^ c := by linarith
  · have hsig : ((2 ^ 23 + w.toNat % 2 ^ 23 : ℕ) : ℚ) < 2 ^ 23 * 2 := by
      have : 2 ^ 23 + w.toNat % 2 ^ 23 < 2 ^ 23 * 2 := by omega
      exact_mod_cast this
    rw [div_mul_cancel₀ _ (by positivity)]
    calc ((2 ^ 23 + w.toNat % 2 ^ 23 : ℕ) : ℚ) * 2 ^ (w.toNat / 2 ^ 23)
        < 2 ^ 23 * 2 * 2 ^ (w.toNat / 2 ^ 23) := mul_lt_mul_of_pos_right hsig (by positivity)
      _ = 2 ^ 23 * (2 ^ (w.toNat / 2 ^ 23) * 2) := by ring
      _ ≤ 2 ^ 23 * 2 ^ c := by linarith

/-- The values of biased exponent `c` and above are whole numbers of its spacings; one of at most `2^24` spacings fixes
the pattern. -/
theorem binary32Value_of_le {c : Nat} {w : Word} (hc : 1 ≤ c) (h : c ≤ w.toNat / 2 ^ 23) :
    ∃ M : Nat, binary32Value w = M * binary32Ulp c ∧ (M ≤ 2 ^ 24 → w.toNat = c * 2 ^ 23 + (M - 2 ^ 23)) := by
  obtain ⟨j, hj⟩ := Nat.exists_eq_add_of_le h
  refine ⟨(2 ^ 23 + w.toNat % 2 ^ 23) * 2 ^ j, ?_, fun hM => ?_⟩
  · rw [binary32Value, if_neg (by omega), hj, binary32Ulp]
    push_cast
    ring
  · rcases j with _ | _ | j
    · omega
    · omega
    · have hfour : 2 ^ 2 ≤ 2 ^ (j + 2) := Nat.pow_le_pow_right two_pos (by omega)
      exact absurd ((Nat.mul_le_mul (Nat.le_add_right (2 ^ 23) _) hfour).trans hM) (by norm_num)

/-! ### The ratio -/

/-- The ratio's pattern: of biased exponent `c`, its significand is the ratio in spacings of `c`, rounded. -/
theorem ratioBits_significand {a k : Nat} (ha : 0 < a) (hak : a ≤ k) (hk : k ≤ 32768) :
    ∃ c N : Nat, 112 ≤ c ∧ c ≤ 127 ∧ N = divNearestEven (a * 2 ^ (150 - c)) k ∧
      2 ^ 23 * k ≤ a * 2 ^ (150 - c) ∧ 2 ^ 23 ≤ N ∧ N ≤ 2 ^ 24 ∧
      (ratioBits a k).toNat = c * 2 ^ 23 + (N - 2 ^ 23) := by
  have hfuel : k ≤ a * 2 ^ 15 := by omega
  have he : ratioScale 32 a k ≤ 15 := ratioScale_le hfuel
  have hle : k ≤ a * 2 ^ ratioScale 32 a k :=
    le_mul_ratioScale (hfuel.trans (Nat.mul_le_mul_left a (Nat.pow_le_pow_right two_pos (by omega))))
  have hlt : a * 2 ^ ratioScale 32 a k < 2 * k := mul_ratioScale_lt (by omega)
  have hscaled : a * 2 ^ (ratioScale 32 a k + 23) = a * 2 ^ ratioScale 32 a k * 2 ^ 23 := by rw [pow_add, mul_assoc]
  have hlo : 2 ^ 23 ≤ divNearestEven (a * 2 ^ (ratioScale 32 a k + 23)) k := le_divNearestEven (by omega) (by omega)
  have hhi : divNearestEven (a * 2 ^ (ratioScale 32 a k + 23)) k ≤ 2 ^ 24 := divNearestEven_le (by omega) (by omega)
  have hexp : 150 - (127 - ratioScale 32 a k) = ratioScale 32 a k + 23 := by omega
  refine ⟨127 - ratioScale 32 a k, _, by omega, by omega, rfl, ?_, ?_, ?_, ?_⟩ <;> rw [hexp]
  · omega
  · exact hlo
  · exact hhi
  · rw [ratioBits, if_neg (by omega), BitVec.toNat_ofNat, Nat.mod_eq_of_lt (by omega)]

theorem two_pow_mul_binary32Ulp {c : Nat} (hc : c ≤ 150) : 2 ^ (150 - c) * binary32Ulp c = 1 := by
  rw [binary32Ulp, ← mul_div_assoc, ← pow_add, Nat.sub_add_cancel hc, div_self (by positivity)]

/-- A ratio in spacings of biased exponent `c`. -/
theorem ratio_eq_mul_binary32Ulp {c : Nat} (hc : c ≤ 150) (a k : Nat) :
    (a : ℚ) / k = (a * 2 ^ (150 - c) : ℕ) / k * binary32Ulp c := by
  push_cast
  linear_combination (-(a : ℚ) / k) * two_pow_mul_binary32Ulp hc

/-- The ratio lies in `[2^-15, 1]`. -/
theorem binary32Value_ratioBits_bounds {a k : Nat} (ha : 0 < a) (hak : a ≤ k) (hk : k ≤ 32768) :
    1 / 2 ^ 15 ≤ binary32Value (ratioBits a k) ∧ binary32Value (ratioBits a k) ≤ 1 := by
  obtain ⟨c, N, hc, hc', hN, -, hlo, hhi, hbits⟩ := ratioBits_significand ha hak hk
  have hu := binary32Ulp_pos c
  rw [binary32Value_of_significand (by omega) hlo hhi hbits]
  constructor
  · have hulp : 2 ^ 112 / 2 ^ 150 ≤ binary32Ulp c :=
      div_le_div_of_nonneg_right (pow_le_pow_right₀ one_le_two hc) (by positivity)
    calc (1 : ℚ) / 2 ^ 15 = 2 ^ 23 * (2 ^ 112 / 2 ^ 150) := by norm_num
      _ ≤ N * binary32Ulp c := mul_le_mul (by exact_mod_cast hlo) hulp (by positivity) (by positivity)
  · have hone : N ≤ 2 ^ (150 - c) := by
      rw [hN, mul_comm a]
      exact divNearestEven_le (by omega) (Nat.mul_le_mul_left _ hak)
    calc N * binary32Ulp c ≤ 2 ^ (150 - c) * binary32Ulp c :=
          mul_le_mul_of_nonneg_right (by exact_mod_cast hone) hu.le
      _ = 1 := two_pow_mul_binary32Ulp (by omega)

/-- What is no farther from `r` than `y` below it is nearer than everything below `y`. -/
theorem abs_sub_lt_of_lt_of_le {x y z r : ℚ} (h : |x - r| ≤ |y - r|) (hz : z < y) (hy : y ≤ r) : |x - r| < |z - r| :=
  calc |x - r| ≤ r - y := by rwa [abs_sub_comm y, abs_of_nonneg (sub_nonneg.2 hy)] at h
    _ < r - z := by linarith
    _ ≤ |z - r| := by rw [abs_sub_comm]; exact le_abs_self _

/-- No finite pattern of sign 0 is nearer to `a / k` than the ratio, and another one as near leaves it even. -/
theorem ratioBits_nearest {a k : Nat} (ha : 0 < a) (hak : a ≤ k) (hk : k ≤ 32768) (w : Word) :
    |binary32Value (ratioBits a k) - (a : ℚ) / k| ≤ |binary32Value w - (a : ℚ) / k| ∧
      (|binary32Value (ratioBits a k) - (a : ℚ) / k| = |binary32Value w - (a : ℚ) / k| → w ≠ ratioBits a k →
        (ratioBits a k).toNat % 2 = 0) := by
  obtain ⟨c, N, hc, hc', hN, hratio, hlo, hhi, hbits⟩ := ratioBits_significand ha hak hk
  have hk0 : 0 < k := by omega
  have hu := binary32Ulp_pos c
  have hnearest := divNearestEven_nearest hk0 hu (a * 2 ^ (150 - c))
  rw [← hN] at hnearest
  rw [binary32Value_of_significand (by omega) hlo hhi hbits, ratio_eq_mul_binary32Ulp (c := c) (by omega)]
  rcases lt_or_ge (w.toNat / 2 ^ 23) c with hlt | hge
  · have hbelow := binary32Value_lt hlt
    have hleast : (2 ^ 23 : ℕ) * binary32Ulp c ≤ (a * 2 ^ (150 - c) : ℕ) / k * binary32Ulp c := by
      refine mul_le_mul_of_nonneg_right ?_ hu.le
      rw [le_div_iff₀ (by exact_mod_cast hk0)]
      exact_mod_cast hratio
    have hnearer := abs_sub_lt_of_lt_of_le (hnearest (2 ^ 23)).1 hbelow hleast
    exact ⟨hnearer.le, fun h => absurd h hnearer.ne⟩
  · obtain ⟨M, hM, hpattern⟩ := binary32Value_of_le (by omega) hge
    rw [hM]
    refine ⟨(hnearest M).1, fun heq hne => ?_⟩
    have hMN : M ≠ N := fun h => hne (BitVec.eq_of_toNat_eq (by rw [hpattern (by omega), hbits, h]))
    have heven := (hnearest M).2 heq hMN
    omega

theorem ratioBits_self {k : Nat} (hk : 0 < k) : ratioBits k k = 0x3F800000 := by
  have hscale : ratioScale 32 k k = 0 := by simp [ratioScale]
  have hone : divNearestEven (k * 2 ^ 23) k = 2 ^ 23 :=
    (divNearestEven_le hk (by omega)).antisymm (le_divNearestEven hk (by omega))
  rw [ratioBits, if_neg (by omega), hscale, hone]
  rfl

/-- Settles O29: the significand is the rounded ratio in spacings of its exponent, and patterns of smaller exponents
are farther away than the least value of that exponent. -/
theorem ratioIsTheNearestBinary32 : Obligations.RatioIsTheNearestBinary32 := by
  unfold Obligations.RatioIsTheNearestBinary32
  refine ⟨fun a k ha hak hk => ?_, fun k hk _ => ratioBits_self hk, fun k => by simp [ratioBits],
    fun a => by simp [ratioBits]⟩
  obtain ⟨hleast, hmost⟩ := binary32Value_ratioBits_bounds ha hak hk
  obtain ⟨c, N, -, hc, -, -, -, hhi, hbits⟩ := ratioBits_significand ha hak hk
  exact ⟨by omega, hleast, hmost, fun w _ => ratioBits_nearest ha hak hk w⟩

end Sys2Proof.Machine
end

section
/-! The two resets (70_reset_and_hazards.md R450 to R452): what every register reads after them. -/

namespace Sys2Proof.Machine

/-! ### The registers after a reset (R451) -/

/-- What survives power-on reset, the inputs and the draw counter, is no register (R450). -/
theorem readReg_powerOnReset (s : State) (r : Reg) :
    readReg (powerOnReset s) r = readReg (State.powerOn s.params) r := by
  cases r <;> rfl

/-- What survives soft reset beside them, the memories and the report log, is no register either (R452). -/
theorem readReg_softReset (s : State) (r : Reg) :
    readReg (softReset s) r = readReg (State.powerOn s.params) r := by
  cases r <;> rfl

/-- STATUS is 0 after power-on reset: IDLE, not BUSY, no valid statistics (R42, R451). -/
theorem statusWord_powerOn (p : Params) : (State.powerOn p).statusWord = 0 := by
  simp [State.statusWord, State.busy, State.powerOn, SeqState.code]

/-- ERR is 0 after power-on reset (R44, R451). -/
theorem errWord_powerOn (p : Params) : (State.powerOn p).errWord = 0 := by
  simp [State.errWord, State.powerOn, ErrCode.code]

/-- The interrupt line is low after power-on reset (R450). -/
theorem irq_powerOnReset (s : State) : (powerOnReset s).irq = false := by
  simp [State.irq, powerOnReset, State.powerOn]

/-- The registers whose reset value R451 does not give as 0, or gives by a parameter. -/
def Reg.resetNonzero : List Reg :=
  [.id, .capacity, .blockBytes, .paramScratch, .paramPayload, .noiseThr, .moderateBp, .strongBp, .activeBp, .sampleRate,
    .stMin]

/-- Every other register is 0 after power-on reset, also those read through an encoding of their field (R451). -/
theorem readReg_powerOn_eq_zero (p : Params) {r : Reg} (h : r ∉ Reg.resetNonzero) :
    readReg (State.powerOn p) r = 0 := by
  cases r <;> simp [Reg.resetNonzero] at h
  case status => exact statusWord_powerOn p
  case err => exact errWord_powerOn p
  all_goals rfl

/-- The registers that hold SCRATCH_BYTES after power-on reset (R49, R50, R73). -/
theorem readReg_powerOn_scratchBytes (p : Params) {r : Reg} (h : r ∈ [Reg.capacity, .blockBytes, .paramScratch]) :
    readReg (State.powerOn p) r = BitVec.ofNat 32 p.scratchBytes := by
  simp only [List.mem_cons, List.not_mem_nil, or_false] at h
  obtain rfl | rfl | rfl := h <;> rfl

/-- Settles O48: the step is `powerOnReset`, after which the registers read as in `State.powerOn`. -/
theorem powerOnResetValues : Obligations.PowerOnResetValues := by
  unfold Obligations.PowerOnResetValues
  intro s h
  refine ⟨powerOnReset s.pop, step_powerOn h, rfl, rfl, irq_powerOnReset _, fun _ => rfl, ?_⟩
  simp only [readReg_powerOnReset]
  exact ⟨rfl, fun _ hr => readReg_powerOn_scratchBytes _ hr, rfl, rfl, rfl, rfl, rfl, rfl, rfl,
    fun _ hr => readReg_powerOn_eq_zero _ hr⟩

/-! ### Soft reset (R452) -/

/-- A write of CTRL with bit 0 set at an idle block is a soft reset of the acknowledged state (R41, R452). -/
theorem step_softReset {s : State} {v : Word} (h : s.inputs.head? = some (.host (.write .word 0x00000004 v)))
    (hv : v.getLsbD 0 = true) (hi : s.seqState = .idle) : step s = .next (softReset (s.answerHost .ack)) := by
  rw [step_writeReg (r := .ctrl) h (by decide)]
  simp only [writeReg, writeCtrl, hv, if_true, unlessBusy_of_idle (s := s.answerHost .ack) hi]

/-- Settles O49: idle, the step is `softReset`; busy, the write is one of those R212 drops. -/
theorem softResetKeepsMemories : Obligations.SoftResetKeepsMemories := by
  unfold Obligations.SoftResetKeepsMemories
  intro s v h hv
  constructor
  · exact fun hi => ⟨_, step_softReset h hv hi, readReg_softReset _, rfl, rfl, rfl, rfl, rfl, rfl⟩
  · exact fun hb => writesWhileBusyAreDropped s .word _ v h hb (.inr (.inr ⟨rfl, rfl, hv⟩))

end Sys2Proof.Machine
end
